-- ==== Sys2Proof/Word.lean ====
section
/-! DEFINITION. The word types of the core (spec 10_state.md R20, 20_memory.md R60): 32-bit registers and addresses,
16-bit halfwords, 8-bit bytes. -/

namespace Sys2Proof

/-- A register, an address or a 32-bit memory word (R20). -/
abbrev Word := BitVec 32

/-- A halfword: the unit of instruction encoding (R90 to R92). -/
abbrev Half := BitVec 16

/-- A byte: the unit of the address space (R60). -/
abbrev Byte := BitVec 8

end Sys2Proof
end

