-- ==== Sys2Proof/Syntax.lean ====
section
/-! DEFINITION. The instructions: one constructor per row of spec/opcode_table.json, its arguments the row's fields in
the order of their bit positions from the left (30_encoding.md R101, R102, R118), register numbers as the bit fields
they are. A field named `sb…` holds should-be bits, which the decoder does not examine and which have no effect
(R114); they are kept so that every opcode has exactly one instruction and every instruction one opcode. -/

namespace Sys2Proof

/-- A 3-bit register field: R0 to R7. -/
abbrev LowReg := BitVec 3

/-- A 4-bit register field: R0 to R12, SP (13), LR (14), PC (15). -/
abbrev RegNum := BitVec 4

/-- The instruction set. -/
inductive Instr where
  -- 41_shift_add_sub_mov.md
  | lslImm (imm5 : BitVec 5) (rm rd : LowReg)
  | movsReg (rm rd : LowReg)
  | lsrImm (imm5 : BitVec 5) (rm rd : LowReg)
  | asrImm (imm5 : BitVec 5) (rm rd : LowReg)
  | addReg (rm rn rd : LowReg)
  | subReg (rm rn rd : LowReg)
  | addImm3 (imm3 : BitVec 3) (rn rd : LowReg)
  | subImm3 (imm3 : BitVec 3) (rn rd : LowReg)
  | movImm (rd : LowReg) (imm8 : BitVec 8)
  | cmpImm (rn : LowReg) (imm8 : BitVec 8)
  | addImm8 (rdn : LowReg) (imm8 : BitVec 8)
  | subImm8 (rdn : LowReg) (imm8 : BitVec 8)
  -- 42_data_processing_register.md
  | andReg (rm rdn : LowReg)
  | eorReg (rm rdn : LowReg)
  | lslReg (rm rdn : LowReg)
  | lsrReg (rm rdn : LowReg)
  | asrReg (rm rdn : LowReg)
  | adcReg (rm rdn : LowReg)
  | sbcReg (rm rdn : LowReg)
  | rorReg (rm rdn : LowReg)
  | tstReg (rm rn : LowReg)
  | rsbImm0 (rn rd : LowReg)
  | cmpReg (rm rn : LowReg)
  | cmnReg (rm rn : LowReg)
  | orrReg (rm rdn : LowReg)
  | mulReg (rn rdm : LowReg)
  | bicReg (rm rdn : LowReg)
  | mvnReg (rm rd : LowReg)
  -- 43_special_data_bx.md; the 4-bit number DN:Rdn (R103) is one argument
  | addHi (rm rdn : RegNum)
  | unpredCmpLowLow (low6 : BitVec 6)
  | cmpHi (rm rn : RegNum)
  | movHi (rm rd : RegNum)
  | bx (rm : RegNum) (sb : BitVec 3)
  | blxReg (rm : RegNum) (sb : BitVec 3)
  -- 44_load_store_single.md
  | ldrLit (rt : LowReg) (imm8 : BitVec 8)
  | strReg (rm rn rt : LowReg)
  | strhReg (rm rn rt : LowReg)
  | strbReg (rm rn rt : LowReg)
  | ldrsbReg (rm rn rt : LowReg)
  | ldrReg (rm rn rt : LowReg)
  | ldrhReg (rm rn rt : LowReg)
  | ldrbReg (rm rn rt : LowReg)
  | ldrshReg (rm rn rt : LowReg)
  | strImm (imm5 : BitVec 5) (rn rt : LowReg)
  | ldrImm (imm5 : BitVec 5) (rn rt : LowReg)
  | strbImm (imm5 : BitVec 5) (rn rt : LowReg)
  | ldrbImm (imm5 : BitVec 5) (rn rt : LowReg)
  | strhImm (imm5 : BitVec 5) (rn rt : LowReg)
  | ldrhImm (imm5 : BitVec 5) (rn rt : LowReg)
  | strSp (rt : LowReg) (imm8 : BitVec 8)
  | ldrSp (rt : LowReg) (imm8 : BitVec 8)
  -- 45_misc16.md
  | adr (rd : LowReg) (imm8 : BitVec 8)
  | addSpImm8 (rd : LowReg) (imm8 : BitVec 8)
  | addSpImm7 (imm7 : BitVec 7)
  | subSpImm7 (imm7 : BitVec 7)
  | cbz (i : Bool) (imm5 : BitVec 5) (rn : LowReg)
  | cbnz (i : Bool) (imm5 : BitVec 5) (rn : LowReg)
  | sxth (rm rd : LowReg)
  | sxtb (rm rd : LowReg)
  | uxth (rm rd : LowReg)
  | uxtb (rm rd : LowReg)
  | push (m : Bool) (list : BitVec 8)
  | pop (p : Bool) (list : BitVec 8)
  | rev (rm rd : LowReg)
  | rev16 (rm rd : LowReg)
  | revsh (rm rd : LowReg)
  | cps (im : Bool) (sb : BitVec 2) (i f : Bool)
  | bkpt (imm8 : BitVec 8)
  | it (firstcond mask : BitVec 4)
  | nop
  | yield
  | wfe
  | wfi
  | sev
  | hintUnallocated (opA : BitVec 4)
  -- 46_multiple16_branch_svc.md
  | stm (rn : LowReg) (list : BitVec 8)
  | ldm (rn : LowReg) (list : BitVec 8)
  | bCond (cond : BitVec 4) (imm8 : BitVec 8)
  | unpredUdf (imm8 : BitVec 8)
  | svc (imm8 : BitVec 8)
  | b (imm11 : BitVec 11)
  -- 47_load_store_multiple32.md
  | stmW (w : Bool) (rn : RegNum) (sb15 m sb13 : Bool) (list : BitVec 13)
  | ldmW (w : Bool) (rn : RegNum) (p m sb13 : Bool) (list : BitVec 13)
  | popW (p m sb13 : Bool) (list : BitVec 13)
  | stmdb (w : Bool) (rn : RegNum) (sb15 m sb13 : Bool) (list : BitVec 13)
  | pushW (sb15 m sb13 : Bool) (list : BitVec 13)
  | ldmdb (w : Bool) (rn : RegNum) (p m sb13 : Bool) (list : BitVec 13)
  -- 48_dual_exclusive_tablebranch32.md
  | strex (rn rt rd : RegNum) (imm8 : BitVec 8)
  | ldrex (rn rt : RegNum) (sb : BitVec 4) (imm8 : BitVec 8)
  | strdImm (p u w : Bool) (rn rt rt2 : RegNum) (imm8 : BitVec 8)
  | ldrdImm (p u w : Bool) (rn rt rt2 : RegNum) (imm8 : BitVec 8)
  | ldrdLit (p u w : Bool) (rt rt2 : RegNum) (imm8 : BitVec 8)
  | strexb (rn rt : RegNum) (sb : BitVec 4) (rd : RegNum)
  | strexh (rn rt : RegNum) (sb : BitVec 4) (rd : RegNum)
  | ldrexb (rn rt : RegNum) (sbHi sbLo : BitVec 4)
  | ldrexh (rn rt : RegNum) (sbHi sbLo : BitVec 4)
  | tbb (rn : RegNum) (sb : BitVec 8) (rm : RegNum)
  | tbh (rn : RegNum) (sb : BitVec 8) (rm : RegNum)
  -- the two fallback rows (30_encoding.md R97): the opcode they were fetched as
  | unpredNop16 (hw : Half)
  | unpredNop32 (hw1 hw2 : Half)
  deriving DecidableEq, Repr

end Sys2Proof
end

