-- ==== Sys2Proof/WellFormed.lean ====
section
/-! DEFINITION. Which terms of `Instr` stand for an opcode of their own row: the `exclude` lists of
spec/opcode_table.json (30_encoding.md R118) and, for the two fallback rows, that no other row matches (R112, R274,
R110, R311). Every term the decoder answers is well formed. -/

namespace Sys2Proof

/-- R90: the first halfword of a 32-bit opcode has one of three values in bits 15:11. -/
def is32BitPrefix (hw1 : Half) : Bool :=
  match hw1.extractLsb' 11 5 with
  | 0b11101#5 | 0b11110#5 | 0b11111#5 => true
  | _ => false

/-- R274: the 800 unmapped values of the miscellaneous 16-bit group. -/
def unmapped16 (hw : Half) : Bool :=
  hw.extractLsb' 12 4 == 0b1011#4 &&
    match hw.extractLsb' 8 4 with
    | 0b0110#4 => hw.extractLsb' 5 3 != 0b011#3
    | 0b0111#4 | 0b1000#4 => true
    | 0b1010#4 => hw.extractLsb' 6 2 == 0b10#2
    | _ => false

/-- R112 (d), R110, R311: a 32-bit opcode in an unpopulated slot (opcode bits 28:20 = `hw1[12:4]`; `hw1[15:13]` is 111
for every one of them), or in slot 0x08C or 0x08D with another op3. -/
def unmapped32 (hw1 hw2 : Half) : Bool :=
  is32BitPrefix hw1 &&
    match hw1.extractLsb' 4 9 with
    | 0x084#9 | 0x085#9 => false
    | 0x086#9 | 0x08E#9 | 0x094#9 | 0x096#9 | 0x09C#9 | 0x09E#9 => false
    | 0x087#9 | 0x08F#9 | 0x095#9 | 0x097#9 | 0x09D#9 | 0x09F#9 => false
    | 0x088#9 | 0x08A#9 | 0x089#9 | 0x08B#9 => false
    | 0x090#9 | 0x092#9 | 0x091#9 | 0x093#9 => false
    | 0x08C#9 => hw2.extractLsb' 4 4 != 0b0100#4 && hw2.extractLsb' 4 4 != 0b0101#4
    | 0x08D#9 => hw2.extractLsb' 4 4 != 0b0000#4 && hw2.extractLsb' 4 4 != 0b0001#4 &&
        hw2.extractLsb' 4 4 != 0b0100#4 && hw2.extractLsb' 4 4 != 0b0101#4
    | _ => true

/-- The rows' `exclude` lists, and the two fallback rows. -/
def Instr.wellFormed : Instr → Bool
  | .lslImm imm5 _ _ => imm5 != 0#5
  | .cmpHi rm rn => rm.extractLsb' 3 1 == 1#1 || rn.extractLsb' 3 1 == 1#1
  | .it _ mask => mask != 0#4
  | .hintUnallocated opA => opA != 0#4 && opA != 1#4 && opA != 2#4 && opA != 3#4 && opA != 4#4
  | .bCond cond _ => cond != 0b1110#4 && cond != 0b1111#4
  | .ldmW w rn _ _ _ _ => !(w && rn == 13#4)
  | .stmdb w rn _ _ _ _ => !(w && rn == 13#4)
  | .strdImm p _ w _ _ _ _ => p || w
  | .ldrdImm p _ w rn _ _ _ => (p || w) && rn != 15#4
  | .ldrdLit p _ w _ _ _ => p || w
  | .unpredNop16 hw => unmapped16 hw
  | .unpredNop32 hw1 hw2 => unmapped32 hw1 hw2
  | _ => true

end Sys2Proof
end

