-- ==== Sys2Proof/Decode.lean ====
section
/-! DEFINITION. The two-level decoder (30_encoding.md R90 to R118), total on any bytes, and the encoder written from the
same formats (R101, R102). A 16-bit opcode is `hw1`, a 32-bit opcode `hw1:hw2` (R92). Every pattern no row covers
decodes to one of the two fallback rows (R97, R112), so the only thing the decoder can refuse is a byte sequence too
short to hold an instruction. -/

namespace Sys2Proof

/-- Why bytes are not decoded. -/
inductive DecodeError where
  /-- Fewer bytes than the instruction's length (R90, R91). Safe: nothing is answered. -/
  | truncated
  deriving DecidableEq, Repr

/-- `v[lo+len-1:lo]` of a halfword (R11). -/
def bits (hw : Half) (lo len : Nat) : BitVec len := hw.extractLsb' lo len

/-- `v[i]` of a halfword as a flag (R11). -/
def bitAt (hw : Half) (i : Nat) : Bool := hw.getLsbD i

/-! ### The 16-bit sub-tables -/

/-- R104: shift/add/sub/mov, index `hw1[13:9]`; here `hw1[13:12]` = 00 (LSL, LSR) with R171's sub-decode of imm5 = 0. -/
def decodeShiftLow (hw : Half) : Instr :=
  match bits hw 11 1 with
  | 0#1 =>
    match bits hw 6 5 with
    | 0#5 => .movsReg (bits hw 3 3) (bits hw 0 3)
    | imm5 => .lslImm imm5 (bits hw 3 3) (bits hw 0 3)
  | _ => .lsrImm (bits hw 6 5) (bits hw 3 3) (bits hw 0 3)

/-- R104, `hw1[13:12]` = 01: ASR and the three-operand additions and subtractions. -/
def decodeAddSub (hw : Half) : Instr :=
  match bits hw 11 1 with
  | 0#1 => .asrImm (bits hw 6 5) (bits hw 3 3) (bits hw 0 3)
  | _ =>
    match bits hw 9 2 with
    | 0b00#2 => .addReg (bits hw 6 3) (bits hw 3 3) (bits hw 0 3)
    | 0b01#2 => .subReg (bits hw 6 3) (bits hw 3 3) (bits hw 0 3)
    | 0b10#2 => .addImm3 (bits hw 6 3) (bits hw 3 3) (bits hw 0 3)
    | _ => .subImm3 (bits hw 6 3) (bits hw 3 3) (bits hw 0 3)

/-- R105: data-processing register, index `hw1[9:6]`. -/
def decodeDataProc (hw : Half) : Instr :=
  match bits hw 6 4 with
  | 0#4 => .andReg (bits hw 3 3) (bits hw 0 3)
  | 1#4 => .eorReg (bits hw 3 3) (bits hw 0 3)
  | 2#4 => .lslReg (bits hw 3 3) (bits hw 0 3)
  | 3#4 => .lsrReg (bits hw 3 3) (bits hw 0 3)
  | 4#4 => .asrReg (bits hw 3 3) (bits hw 0 3)
  | 5#4 => .adcReg (bits hw 3 3) (bits hw 0 3)
  | 6#4 => .sbcReg (bits hw 3 3) (bits hw 0 3)
  | 7#4 => .rorReg (bits hw 3 3) (bits hw 0 3)
  | 8#4 => .tstReg (bits hw 3 3) (bits hw 0 3)
  | 9#4 => .rsbImm0 (bits hw 3 3) (bits hw 0 3)
  | 10#4 => .cmpReg (bits hw 3 3) (bits hw 0 3)
  | 11#4 => .cmnReg (bits hw 3 3) (bits hw 0 3)
  | 12#4 => .orrReg (bits hw 3 3) (bits hw 0 3)
  | 13#4 => .mulReg (bits hw 3 3) (bits hw 0 3)
  | 14#4 => .bicReg (bits hw 3 3) (bits hw 0 3)
  | _ => .mvnReg (bits hw 3 3) (bits hw 0 3)

/-- R103: the 4-bit register number whose high bit is `hw1[7]` and whose low bits are `hw1[2:0]`. -/
def splitReg (hw : Half) : RegNum := bits hw 7 1 ++ bits hw 0 3

/-- R106: special-data and branch-exchange, index `hw1[9:6]`. -/
def decodeSpecial (hw : Half) : Instr :=
  match bits hw 8 2 with
  | 0b00#2 => .addHi (bits hw 3 4) (splitReg hw)
  | 0b01#2 =>
    match bits hw 6 2 with
    | 0b00#2 => .unpredCmpLowLow (bits hw 0 6)
    | _ => .cmpHi (bits hw 3 4) (splitReg hw)
  | 0b10#2 => .movHi (bits hw 3 4) (splitReg hw)
  | _ =>
    match bits hw 7 1 with
    | 0#1 => .bx (bits hw 3 4) (bits hw 0 3)
    | _ => .blxReg (bits hw 3 4) (bits hw 0 3)

/-- R95, `hw1[15:12]` = 0100: data processing, special data, and the base-table terminal LDR (literal). -/
def decodeGroup4 (hw : Half) : Instr :=
  match bits hw 10 2 with
  | 0b00#2 => decodeDataProc hw
  | 0b01#2 => decodeSpecial hw
  | _ => .ldrLit (bits hw 8 3) (bits hw 0 8)

/-- R107, `hw1[15:12]` = 0101: load/store single, register offset. -/
def decodeLoadStoreReg (hw : Half) : Instr :=
  match bits hw 9 3 with
  | 0#3 => .strReg (bits hw 6 3) (bits hw 3 3) (bits hw 0 3)
  | 1#3 => .strhReg (bits hw 6 3) (bits hw 3 3) (bits hw 0 3)
  | 2#3 => .strbReg (bits hw 6 3) (bits hw 3 3) (bits hw 0 3)
  | 3#3 => .ldrsbReg (bits hw 6 3) (bits hw 3 3) (bits hw 0 3)
  | 4#3 => .ldrReg (bits hw 6 3) (bits hw 3 3) (bits hw 0 3)
  | 5#3 => .ldrhReg (bits hw 6 3) (bits hw 3 3) (bits hw 0 3)
  | 6#3 => .ldrbReg (bits hw 6 3) (bits hw 3 3) (bits hw 0 3)
  | _ => .ldrshReg (bits hw 6 3) (bits hw 3 3) (bits hw 0 3)

/-- R108, `hw1[11:8]` = 0010: the extends. -/
def decodeExtend (hw : Half) : Instr :=
  match bits hw 6 2 with
  | 0b00#2 => .sxth (bits hw 3 3) (bits hw 0 3)
  | 0b01#2 => .sxtb (bits hw 3 3) (bits hw 0 3)
  | 0b10#2 => .uxth (bits hw 3 3) (bits hw 0 3)
  | _ => .uxtb (bits hw 3 3) (bits hw 0 3)

/-- R108, `hw1[11:8]` = 1010: the byte reverses; `10` is unmapped. -/
def decodeReverse (hw : Half) : Instr :=
  match bits hw 6 2 with
  | 0b00#2 => .rev (bits hw 3 3) (bits hw 0 3)
  | 0b01#2 => .rev16 (bits hw 3 3) (bits hw 0 3)
  | 0b10#2 => .unpredNop16 hw
  | _ => .revsh (bits hw 3 3) (bits hw 0 3)

/-- R108, last mapped row: the IT and hint sub-decode. -/
def decodeHint (hw : Half) : Instr :=
  match bits hw 0 4 with
  | 0#4 =>
    match bits hw 4 4 with
    | 0#4 => .nop
    | 1#4 => .yield
    | 2#4 => .wfe
    | 3#4 => .wfi
    | 4#4 => .sev
    | opA => .hintUnallocated opA
  | mask => .it (bits hw 4 4) mask

/-- R108: miscellaneous 16-bit, by `hw1[11:8]` and below it. -/
def decodeMisc (hw : Half) : Instr :=
  match bits hw 8 4 with
  | 0b0000#4 =>
    match bits hw 7 1 with
    | 0#1 => .addSpImm7 (bits hw 0 7)
    | _ => .subSpImm7 (bits hw 0 7)
  | 0b0001#4 | 0b0011#4 => .cbz (bitAt hw 9) (bits hw 3 5) (bits hw 0 3)
  | 0b0010#4 => decodeExtend hw
  | 0b0100#4 | 0b0101#4 => .push (bitAt hw 8) (bits hw 0 8)
  | 0b0110#4 =>
    match bits hw 5 3 with
    | 0b011#3 => .cps (bitAt hw 4) (bits hw 2 2) (bitAt hw 1) (bitAt hw 0)
    | _ => .unpredNop16 hw
  | 0b0111#4 | 0b1000#4 => .unpredNop16 hw
  | 0b1001#4 | 0b1011#4 => .cbnz (bitAt hw 9) (bits hw 3 5) (bits hw 0 3)
  | 0b1010#4 => decodeReverse hw
  | 0b1100#4 | 0b1101#4 => .pop (bitAt hw 8) (bits hw 0 8)
  | 0b1110#4 => .bkpt (bits hw 0 8)
  | _ => decodeHint hw

/-- R109: conditional branch and SVC, index `hw1[11:8]`. -/
def decodeCondBranch (hw : Half) : Instr :=
  match bits hw 8 4 with
  | 0b1110#4 => .unpredUdf (bits hw 0 8)
  | 0b1111#4 => .svc (bits hw 0 8)
  | cond => .bCond cond (bits hw 0 8)

/-- R95: a 16-bit opcode. Called only where `is32BitPrefix hw` is false (`hw1[15:12]` = 1110 then has `hw1[11]` = 0). -/
def decode16 (hw : Half) : Instr :=
  match bits hw 12 4 with
  | 0x0#4 => decodeShiftLow hw
  | 0x1#4 => decodeAddSub hw
  | 0x2#4 =>
    match bits hw 11 1 with
    | 0#1 => .movImm (bits hw 8 3) (bits hw 0 8)
    | _ => .cmpImm (bits hw 8 3) (bits hw 0 8)
  | 0x3#4 =>
    match bits hw 11 1 with
    | 0#1 => .addImm8 (bits hw 8 3) (bits hw 0 8)
    | _ => .subImm8 (bits hw 8 3) (bits hw 0 8)
  | 0x4#4 => decodeGroup4 hw
  | 0x5#4 => decodeLoadStoreReg hw
  | 0x6#4 =>
    match bits hw 11 1 with
    | 0#1 => .strImm (bits hw 6 5) (bits hw 3 3) (bits hw 0 3)
    | _ => .ldrImm (bits hw 6 5) (bits hw 3 3) (bits hw 0 3)
  | 0x7#4 =>
    match bits hw 11 1 with
    | 0#1 => .strbImm (bits hw 6 5) (bits hw 3 3) (bits hw 0 3)
    | _ => .ldrbImm (bits hw 6 5) (bits hw 3 3) (bits hw 0 3)
  | 0x8#4 =>
    match bits hw 11 1 with
    | 0#1 => .strhImm (bits hw 6 5) (bits hw 3 3) (bits hw 0 3)
    | _ => .ldrhImm (bits hw 6 5) (bits hw 3 3) (bits hw 0 3)
  | 0x9#4 =>
    match bits hw 11 1 with
    | 0#1 => .strSp (bits hw 8 3) (bits hw 0 8)
    | _ => .ldrSp (bits hw 8 3) (bits hw 0 8)
  | 0xA#4 =>
    match bits hw 11 1 with
    | 0#1 => .adr (bits hw 8 3) (bits hw 0 8)
    | _ => .addSpImm8 (bits hw 8 3) (bits hw 0 8)
  | 0xB#4 => decodeMisc hw
  | 0xC#4 =>
    match bits hw 11 1 with
    | 0#1 => .stm (bits hw 8 3) (bits hw 0 8)
    | _ => .ldm (bits hw 8 3) (bits hw 0 8)
  | 0xD#4 => decodeCondBranch hw
  | _ => .b (bits hw 0 11)

/-! ### The 32-bit table -/

/-- R110, slots of STRD: `hw1[12:4]` = `010 0 P U 1 W 0` with (P, W) not (0, 0). -/
def decodeStrd (hw1 hw2 : Half) : Instr :=
  .strdImm (bitAt hw1 8) (bitAt hw1 7) (bitAt hw1 5) (bits hw1 0 4) (bits hw2 12 4) (bits hw2 8 4) (bits hw2 0 8)

/-- R110, slots of LDRD: the sub-decoder reads Rn. -/
def decodeLdrd (hw1 hw2 : Half) : Instr :=
  match bits hw1 0 4 with
  | 15#4 => .ldrdLit (bitAt hw1 8) (bitAt hw1 7) (bitAt hw1 5) (bits hw2 12 4) (bits hw2 8 4) (bits hw2 0 8)
  | rn => .ldrdImm (bitAt hw1 8) (bitAt hw1 7) (bitAt hw1 5) rn (bits hw2 12 4) (bits hw2 8 4) (bits hw2 0 8)

/-- R111 (b), R311: slot 0x08C, by op3 = `hw2[7:4]`. -/
def decodeSlot08C (hw1 hw2 : Half) : Instr :=
  match bits hw2 4 4 with
  | 0b0100#4 => .strexb (bits hw1 0 4) (bits hw2 12 4) (bits hw2 8 4) (bits hw2 0 4)
  | 0b0101#4 => .strexh (bits hw1 0 4) (bits hw2 12 4) (bits hw2 8 4) (bits hw2 0 4)
  | _ => .unpredNop32 hw1 hw2

/-- R111 (b), R311: slot 0x08D, by op3 = `hw2[7:4]`. -/
def decodeSlot08D (hw1 hw2 : Half) : Instr :=
  match bits hw2 4 4 with
  | 0b0000#4 => .tbb (bits hw1 0 4) (bits hw2 8 8) (bits hw2 0 4)
  | 0b0001#4 => .tbh (bits hw1 0 4) (bits hw2 8 8) (bits hw2 0 4)
  | 0b0100#4 => .ldrexb (bits hw1 0 4) (bits hw2 12 4) (bits hw2 8 4) (bits hw2 0 4)
  | 0b0101#4 => .ldrexh (bits hw1 0 4) (bits hw2 12 4) (bits hw2 8 4) (bits hw2 0 4)
  | _ => .unpredNop32 hw1 hw2

/-- R111 (a): slots 0x089 and 0x08B; with W = 1 and Rn = 1101 it is POP.W. -/
def decodeLdmW (hw1 hw2 : Half) : Instr :=
  if bitAt hw1 5 && bits hw1 0 4 == 13#4 then
    .popW (bitAt hw2 15) (bitAt hw2 14) (bitAt hw2 13) (bits hw2 0 13)
  else .ldmW (bitAt hw1 5) (bits hw1 0 4) (bitAt hw2 15) (bitAt hw2 14) (bitAt hw2 13) (bits hw2 0 13)

/-- R111 (a): slots 0x090 and 0x092; with W = 1 and Rn = 1101 it is PUSH.W. -/
def decodeStmdb (hw1 hw2 : Half) : Instr :=
  if bitAt hw1 5 && bits hw1 0 4 == 13#4 then
    .pushW (bitAt hw2 15) (bitAt hw2 14) (bitAt hw2 13) (bits hw2 0 13)
  else .stmdb (bitAt hw1 5) (bits hw1 0 4) (bitAt hw2 15) (bitAt hw2 14) (bitAt hw2 13) (bits hw2 0 13)

/-- R96, R110: a 32-bit opcode, index opcode bits 28:20 = `hw1[12:4]`. -/
def decode32 (hw1 hw2 : Half) : Instr :=
  match bits hw1 4 9 with
  | 0x084#9 => .strex (bits hw1 0 4) (bits hw2 12 4) (bits hw2 8 4) (bits hw2 0 8)
  | 0x085#9 => .ldrex (bits hw1 0 4) (bits hw2 12 4) (bits hw2 8 4) (bits hw2 0 8)
  | 0x086#9 | 0x08E#9 | 0x094#9 | 0x096#9 | 0x09C#9 | 0x09E#9 => decodeStrd hw1 hw2
  | 0x087#9 | 0x08F#9 | 0x095#9 | 0x097#9 | 0x09D#9 | 0x09F#9 => decodeLdrd hw1 hw2
  | 0x088#9 | 0x08A#9 =>
    .stmW (bitAt hw1 5) (bits hw1 0 4) (bitAt hw2 15) (bitAt hw2 14) (bitAt hw2 13) (bits hw2 0 13)
  | 0x089#9 | 0x08B#9 => decodeLdmW hw1 hw2
  | 0x08C#9 => decodeSlot08C hw1 hw2
  | 0x08D#9 => decodeSlot08D hw1 hw2
  | 0x090#9 | 0x092#9 => decodeStmdb hw1 hw2
  | 0x091#9 | 0x093#9 =>
    .ldmdb (bitAt hw1 5) (bits hw1 0 4) (bitAt hw2 15) (bitAt hw2 14) (bitAt hw2 13) (bits hw2 0 13)
  | _ => .unpredNop32 hw1 hw2

/-- The instruction of the two fetched halfwords, and its length in bytes (R90, R92, R93). -/
def decodeOpcode (hw1 hw2 : Half) : Instr × Nat :=
  if is32BitPrefix hw1 then (decode32 hw1 hw2, 4) else (decode16 hw1, 2)

/-- R62: the little-endian halfword of two bytes, the first at the lower address. -/
def halfOfBytes (b0 b1 : Byte) : Half := b1 ++ b0

/-- The decoder on bytes in address order: the first instruction and the bytes left. -/
def decode : List Byte → Except DecodeError (Instr × List Byte)
  | b0 :: b1 :: rest =>
    if is32BitPrefix (halfOfBytes b0 b1) then
      match rest with
      | b2 :: b3 :: rest' => .ok (decode32 (halfOfBytes b0 b1) (halfOfBytes b2 b3), rest')
      | _ => .error .truncated
    else .ok (decode16 (halfOfBytes b0 b1), rest)
  | _ => .error .truncated

/-! ### The encoder -/

/-- A flag as one bit of an opcode. -/
def bit (v : Bool) : BitVec 1 := BitVec.ofBool v

/-- The halfwords of an instruction: constant bits and fields in the order of R101, R102 and R108, bit 15 leftmost. -/
def encode : Instr → List Half
  | .lslImm i m d => [0b00000#5 ++ i ++ m ++ d]
  | .movsReg m d => [0b0000000000#10 ++ m ++ d]
  | .lsrImm i m d => [0b00001#5 ++ i ++ m ++ d]
  | .asrImm i m d => [0b00010#5 ++ i ++ m ++ d]
  | .addReg m n d => [0b0001100#7 ++ m ++ n ++ d]
  | .subReg m n d => [0b0001101#7 ++ m ++ n ++ d]
  | .addImm3 i n d => [0b0001110#7 ++ i ++ n ++ d]
  | .subImm3 i n d => [0b0001111#7 ++ i ++ n ++ d]
  | .movImm d i => [0b00100#5 ++ d ++ i]
  | .cmpImm n i => [0b00101#5 ++ n ++ i]
  | .addImm8 d i => [0b00110#5 ++ d ++ i]
  | .subImm8 d i => [0b00111#5 ++ d ++ i]
  | .andReg m d => [0b0100000000#10 ++ m ++ d]
  | .eorReg m d => [0b0100000001#10 ++ m ++ d]
  | .lslReg m d => [0b0100000010#10 ++ m ++ d]
  | .lsrReg m d => [0b0100000011#10 ++ m ++ d]
  | .asrReg m d => [0b0100000100#10 ++ m ++ d]
  | .adcReg m d => [0b0100000101#10 ++ m ++ d]
  | .sbcReg m d => [0b0100000110#10 ++ m ++ d]
  | .rorReg m d => [0b0100000111#10 ++ m ++ d]
  | .tstReg m d => [0b0100001000#10 ++ m ++ d]
  | .rsbImm0 m d => [0b0100001001#10 ++ m ++ d]
  | .cmpReg m d => [0b0100001010#10 ++ m ++ d]
  | .cmnReg m d => [0b0100001011#10 ++ m ++ d]
  | .orrReg m d => [0b0100001100#10 ++ m ++ d]
  | .mulReg m d => [0b0100001101#10 ++ m ++ d]
  | .bicReg m d => [0b0100001110#10 ++ m ++ d]
  | .mvnReg m d => [0b0100001111#10 ++ m ++ d]
  | .addHi m d => [0b01000100#8 ++ d.extractLsb' 3 1 ++ m ++ d.extractLsb' 0 3]
  | .unpredCmpLowLow x => [0b0100010100#10 ++ x]
  | .cmpHi m n => [0b01000101#8 ++ n.extractLsb' 3 1 ++ m ++ n.extractLsb' 0 3]
  | .movHi m d => [0b01000110#8 ++ d.extractLsb' 3 1 ++ m ++ d.extractLsb' 0 3]
  | .bx m sb => [0b010001110#9 ++ m ++ sb]
  | .blxReg m sb => [0b010001111#9 ++ m ++ sb]
  | .ldrLit t i => [0b01001#5 ++ t ++ i]
  | .strReg m n t => [0b0101000#7 ++ m ++ n ++ t]
  | .strhReg m n t => [0b0101001#7 ++ m ++ n ++ t]
  | .strbReg m n t => [0b0101010#7 ++ m ++ n ++ t]
  | .ldrsbReg m n t => [0b0101011#7 ++ m ++ n ++ t]
  | .ldrReg m n t => [0b0101100#7 ++ m ++ n ++ t]
  | .ldrhReg m n t => [0b0101101#7 ++ m ++ n ++ t]
  | .ldrbReg m n t => [0b0101110#7 ++ m ++ n ++ t]
  | .ldrshReg m n t => [0b0101111#7 ++ m ++ n ++ t]
  | .strImm i n t => [0b01100#5 ++ i ++ n ++ t]
  | .ldrImm i n t => [0b01101#5 ++ i ++ n ++ t]
  | .strbImm i n t => [0b01110#5 ++ i ++ n ++ t]
  | .ldrbImm i n t => [0b01111#5 ++ i ++ n ++ t]
  | .strhImm i n t => [0b10000#5 ++ i ++ n ++ t]
  | .ldrhImm i n t => [0b10001#5 ++ i ++ n ++ t]
  | .strSp t i => [0b10010#5 ++ t ++ i]
  | .ldrSp t i => [0b10011#5 ++ t ++ i]
  | .adr d i => [0b10100#5 ++ d ++ i]
  | .addSpImm8 d i => [0b10101#5 ++ d ++ i]
  | .addSpImm7 i => [0b101100000#9 ++ i]
  | .subSpImm7 i => [0b101100001#9 ++ i]
  | .cbz i5 i n => [0b101100#6 ++ bit i5 ++ 1#1 ++ i ++ n]
  | .cbnz i5 i n => [0b101110#6 ++ bit i5 ++ 1#1 ++ i ++ n]
  | .sxth m d => [0b1011001000#10 ++ m ++ d]
  | .sxtb m d => [0b1011001001#10 ++ m ++ d]
  | .uxth m d => [0b1011001010#10 ++ m ++ d]
  | .uxtb m d => [0b1011001011#10 ++ m ++ d]
  | .push m l => [0b1011010#7 ++ bit m ++ l]
  | .pop p l => [0b1011110#7 ++ bit p ++ l]
  | .rev m d => [0b1011101000#10 ++ m ++ d]
  | .rev16 m d => [0b1011101001#10 ++ m ++ d]
  | .revsh m d => [0b1011101011#10 ++ m ++ d]
  | .cps im sb i f => [0b10110110011#11 ++ bit im ++ sb ++ bit i ++ bit f]
  | .bkpt i => [0b10111110#8 ++ i]
  | .it c k => [0b10111111#8 ++ c ++ k]
  | .nop => [0xBF00#16]
  | .yield => [0xBF10#16]
  | .wfe => [0xBF20#16]
  | .wfi => [0xBF30#16]
  | .sev => [0xBF40#16]
  | .hintUnallocated a => [0b10111111#8 ++ a ++ 0#4]
  | .stm n l => [0b11000#5 ++ n ++ l]
  | .ldm n l => [0b11001#5 ++ n ++ l]
  | .bCond c i => [0b1101#4 ++ c ++ i]
  | .unpredUdf i => [0b11011110#8 ++ i]
  | .svc i => [0b11011111#8 ++ i]
  | .b i => [0b11100#5 ++ i]
  | .stmW w n x15 m x13 l => [0b1110100010#10 ++ bit w ++ 0#1 ++ n, bit x15 ++ bit m ++ bit x13 ++ l]
  | .ldmW w n x15 m x13 l => [0b1110100010#10 ++ bit w ++ 1#1 ++ n, bit x15 ++ bit m ++ bit x13 ++ l]
  | .popW p m x13 l => [0xE8BD#16, bit p ++ bit m ++ bit x13 ++ l]
  | .stmdb w n x15 m x13 l => [0b1110100100#10 ++ bit w ++ 0#1 ++ n, bit x15 ++ bit m ++ bit x13 ++ l]
  | .pushW x15 m x13 l => [0xE92D#16, bit x15 ++ bit m ++ bit x13 ++ l]
  | .ldmdb w n x15 m x13 l => [0b1110100100#10 ++ bit w ++ 1#1 ++ n, bit x15 ++ bit m ++ bit x13 ++ l]
  | .strex n t d i => [0xE84#12 ++ n, t ++ d ++ i]
  | .ldrex n t sb i => [0xE85#12 ++ n, t ++ sb ++ i]
  | .strdImm p u w n t t2 i => [0b1110100#7 ++ bit p ++ bit u ++ 1#1 ++ bit w ++ 0#1 ++ n, t ++ t2 ++ i]
  | .ldrdImm p u w n t t2 i => [0b1110100#7 ++ bit p ++ bit u ++ 1#1 ++ bit w ++ 1#1 ++ n, t ++ t2 ++ i]
  | .ldrdLit p u w t t2 i => [0b1110100#7 ++ bit p ++ bit u ++ 1#1 ++ bit w ++ 0b11111#5, t ++ t2 ++ i]
  | .strexb n t sb d => [0xE8C#12 ++ n, t ++ sb ++ 4#4 ++ d]
  | .strexh n t sb d => [0xE8C#12 ++ n, t ++ sb ++ 5#4 ++ d]
  | .ldrexb n t sbHi sbLo => [0xE8D#12 ++ n, t ++ sbHi ++ 4#4 ++ sbLo]
  | .ldrexh n t sbHi sbLo => [0xE8D#12 ++ n, t ++ sbHi ++ 5#4 ++ sbLo]
  | .tbb n sb m => [0xE8D#12 ++ n, sb ++ 0#4 ++ m]
  | .tbh n sb m => [0xE8D#12 ++ n, sb ++ 1#4 ++ m]
  | .unpredNop16 hw => [hw]
  | .unpredNop32 hw1 hw2 => [hw1, hw2]

/-- R62: the bytes of a halfword in address order. -/
def bytesOfHalf (hw : Half) : List Byte := [hw.extractLsb' 0 8, hw.extractLsb' 8 8]

/-- The bytes of an instruction in address order (R62, R92). -/
def encodeBytes (i : Instr) : List Byte := (encode i).flatMap bytesOfHalf

/-- The opcode value of R92, a 16-bit one zero-extended: what LOG.unpredictable carries. -/
def Instr.opcode (i : Instr) : Word :=
  match encode i with
  | [hw1] => hw1.setWidth 32
  | [hw1, hw2] => hw1 ++ hw2
  | _ => 0

/-- The two halfwords of an instruction whose bits are `w`, numbered as spec/opcode_table.json numbers them (R118): a
16-bit row matches `hw1`, a 32-bit row `hw1:hw2` with `hw1` in bits 31:16 (assumption log 11). -/
def tableHalves (nbits w : Nat) : Half × Half :=
  if nbits ≤ 16 then (BitVec.ofNat 16 w, 0) else (BitVec.ofNat 16 (w >>> 16), BitVec.ofNat 16 w)

/-- The instruction the decoder reads from the halfwords of `w`, laid out as bytes in address order. -/
def decodeTableWord (nbits w : Nat) : Option Instr :=
  match decode (bytesOfHalf (tableHalves nbits w).1 ++ bytesOfHalf (tableHalves nbits w).2) with
  | .ok (i, _) => some i
  | .error _ => none

end Sys2Proof
end

