-- ==== Sys2Proof/Config.lean ====
section
/-! DEFINITION. What the implementation fixes (spec 00_scope.md R9) and the free values: opaque constants with no body,
standing for values the spec leaves open. Nothing in Lean can evaluate a free value, so what is proved holds whatever
it is. -/

namespace Sys2Proof.Config

/-- FREE VALUE (assumption log 4): the word a device region answers to the k-th free draw. The memory collaborator's
answer is an oracle of which the core assumes only size and success (00_scope.md R7, 20_memory.md R61). -/
opaque freeWord : Nat → Word

/-- FREE VALUE (assumption log 5): which of several pending entries of equal group priority is taken at the k-th free
draw, when TIE_BREAK is `any` (60_exceptions.md R333, 92_eei_decisions.md D16). -/
opaque freeChoice : Nat → Nat

/-- CORE_ID, the owner id of every exclusive record (R9). -/
def coreId : Nat := 0

/-- NVEC's default (R9, 92_eei_decisions.md D2): 16 system and 240 external exceptions. -/
def defaultNvec : Nat := 256

/-- The least NVEC (R9). -/
def minNvec : Nat := 16

/-- The greatest NVEC (R9): a vector number has 9 bits. -/
def maxNvec : Nat := 512

/-- The exception number SVC throws (60_exceptions.md R320, 92_eei_decisions.md D27). -/
def svCall : Nat := 11

/-- The exception number a failed exception return throws (R320, R341, D27). -/
def usageFault : Nat := 6

end Sys2Proof.Config
end

