-- ==== Sys2Proof/Machine/Memory.lean ====
section
/-! DEFINITION. Memory (20_memory.md R60 to R62): a list of (address, byte) cells in one canonical form, its little-endian
reads and writes, and the region map of R61, a parameter of the model. -/

namespace Sys2Proof.Machine

/-- An access width (R63). -/
inductive Size where
  | byte | half | word
  deriving DecidableEq, Repr

/-- The width in bytes (R63). -/
def Size.bytes : Size → Nat
  | .byte => 1
  | .half => 2
  | .word => 4

/-- The bytes of the address space that differ from what an unlisted address reads as. -/
structure Memory where
  /-- Addresses strictly rising, no byte equal to `unlistedByte`. -/
  cells : List Host.Cell
  deriving DecidableEq, Repr

/-- What an address that no cell lists reads as. The spec gives memory no contents. DESIGN CHOICE (assumption log 2),
unsafe: zero. -/
def unlistedByte : Byte := 0

/-- The byte the first cell with address `a` holds. -/
def lookupCell (a : Nat) : List Host.Cell → Byte
  | [] => unlistedByte
  | (c, x) :: rest => if a = c then x else lookupCell a rest

/-- Puts the cell `(a, b)` at its place, over an older cell of that address. -/
def insertCell (a : Nat) (b : Byte) : List Host.Cell → List Host.Cell
  | [] => [(a, b)]
  | (c, x) :: rest =>
    if a < c then (a, b) :: (c, x) :: rest
    else if a = c then (a, b) :: rest
    else (c, x) :: insertCell a b rest

/-- The byte at address `a`. -/
def Memory.readByte (m : Memory) (a : Nat) : Byte := lookupCell a m.cells

/-- The memory with byte `b` at address `a`, in canonical form: a byte equal to `unlistedByte` is not listed. -/
def Memory.writeByte (m : Memory) (a : Nat) (b : Byte) : Memory :=
  if b = unlistedByte then ⟨m.cells.filter (fun c => c.1 != a)⟩ else ⟨insertCell a b m.cells⟩

/-- R62: the little-endian value of the `n` bytes from address `a`, `n` at most 4. -/
def Memory.readLE (m : Memory) (a : Nat) : Nat → Word
  | 0 => 0
  | n + 1 => (m.readByte a).setWidth 32 ||| (m.readLE (a + 1) n <<< 8)

/-- R62: the memory after the low `n` bytes of `v` are written from address `a`, the least significant first. -/
def Memory.writeLE (m : Memory) (a : Nat) (v : Word) : Nat → Memory
  | 0 => m
  | n + 1 => (m.writeByte a (v.setWidth 8)).writeLE (a + 1) (v >>> 8) n

/-- Addresses strictly rise, stay below 2^32, and no cell holds `unlistedByte`. -/
def cellsWf : List Host.Cell → Bool
  | [] => true
  | [(a, b)] => decide (a < 2 ^ 32) && b != unlistedByte
  | (a, b) :: (c, x) :: rest => decide (a < c) && b != unlistedByte && cellsWf ((c, x) :: rest)

/-- The canonical form. -/
def Memory.wf (m : Memory) : Bool := cellsWf m.cells

/-- The memory in which nothing is listed. -/
def Memory.empty : Memory := ⟨[]⟩

/-- R61: "region kinds are ROM, RAM, system-control-space, and peripheral". -/
inductive RegionKind where
  | rom | ram | systemControl | peripheral
  deriving DecidableEq, Repr

/-- Whether reads of the kind are answered by a device callback, of which the core assumes only the size (R7, R61).
DESIGN CHOICE (assumption log 22): a ROM region is not one. The spec fixes only what RAM answers (R72 (c)) and leaves the
ROM callback to the platform; here it reads the stored bytes, and a write its region admits changes them, as in RAM. A
ROM that refuses writes is a region with `writable` false; one that accepts and discards them has no map here. -/
def RegionKind.isDevice : RegionKind → Bool
  | .rom | .ram => false
  | .systemControl | .peripheral => true

/-- One range of the region map (R61, R70): its byte addresses are `base` to `base + size - 1`. -/
structure Region where
  base : Nat
  size : Nat
  kind : RegionKind
  readable : Bool
  writable : Bool
  deriving DecidableEq, Repr

/-- Whether all `n` bytes from address `a` lie in the region and below 2^32. DESIGN CHOICE (assumption log 3): an access
that crosses regions or the end of the address space is refused; R80 leaves it to the port. -/
def Region.holds (r : Region) (a n : Nat) : Bool :=
  decide (r.base ≤ a) && decide (a + n ≤ r.base + r.size) && decide (a + n ≤ 2 ^ 32)

/-- The first region that holds the access (R61). -/
def findRegion (rs : List Region) (a n : Nat) : Option Region := rs.find? (fun r => r.holds a n)

/-- DESIGN CHOICE (assumption log 3): the region map of `State.reset`, one RAM region of the whole address space. -/
def wholeSpace : List Region := [{ base := 0, size := 2 ^ 32, kind := .ram, readable := true, writable := true }]

/-- The word at byte address `a` as the reset sequence reads it (R380 step 2): 0 where the port refuses the read, a free
value (assumption log 4) where a device answers; with it the number of the next free draw. -/
def readVector (rs : List Region) (m : Memory) (a ix : Nat) : Word × Nat :=
  match findRegion rs a 4 with
  | none => (0, ix)
  | some r =>
    if r.readable then
      if r.kind.isDevice then (Config.freeWord ix, ix + 1) else (m.readLE a 4, ix)
    else (0, ix)

/-- R380 step 2: the words at `4 * n`, …, `4 * (n + k - 1)`, in that order. -/
def readVectors (rs : List Region) (m : Memory) (n ix : Nat) : Nat → List Word × Nat
  | 0 => ([], ix)
  | k + 1 =>
    let (w, ix1) := readVector rs m (4 * n) ix
    let (ws, ix2) := readVectors rs m (n + 1) ix1 k
    (w :: ws, ix2)

end Sys2Proof.Machine
end

