-- ==== Sys2Proof/Machine/State.lean ====
section
/-! DEFINITION. The architectural state (10_state.md), every piece of it plain data, the reasons a step can stop, and the
machine right after RESET (10_state.md R48, 70_reset_and_hazards.md R380). -/

namespace Sys2Proof.Machine

/-- R39: the two modes. -/
inductive Mode where
  | thread | handler
  deriving DecidableEq, Repr

/-- R29: the fields of the composite status word. -/
structure Psr where
  /-- Negative (R30). -/
  n : Bool
  /-- Zero (R30). -/
  z : Bool
  /-- Carry (R30). -/
  c : Bool
  /-- Signed overflow (R30). -/
  v : Bool
  /-- Sticky saturation (R31). -/
  q : Bool
  /-- Thumb state (R33). -/
  t : Bool
  /-- The IT byte (R32). -/
  itstate : BitVec 8
  /-- The exception number (R34). -/
  ipsr : BitVec 9
  deriving DecidableEq, Repr

/-- R43, R328: a pending key, ordered by `gp * 512 + vector`. -/
structure PendingKey where
  gp : Int
  vector : Nat
  deriving DecidableEq, Repr

/-- R44: the exception-controller record, with the pending store (R43) and the active FIFO (R41). -/
structure Nvic where
  /-- The vector table copied at reset, entry n for exception n. -/
  vt : List Word
  /-- The raw priority of exception n; `none` is the spec's own "unset". -/
  pri : List (Option Int)
  /-- Whether exception n is Active. -/
  active : List Bool
  /-- The active exceptions, innermost last. -/
  activeStack : List Nat
  /-- "nested_exception". -/
  nested : Nat
  /-- The pending keys, a multiset, kept in key order. -/
  pending : List PendingKey
  /-- The group split, 0 to 7. -/
  prigroup : Fin 8
  deriving DecidableEq, Repr

/-- R42: an outstanding exclusive reservation of `addr .. addr+size-1`. -/
structure ExclRecord where
  addr : Word
  size : Size
  owner : Nat
  deriving DecidableEq, Repr

/-- R9, R333: the parameter TIE_BREAK. -/
inductive TieBreak where
  | any | lowestVector
  deriving DecidableEq, Repr

/-- R9: the OPEN parameters. No rule writes them; they are part of State so that one machine covers every value
(assumption log 13). -/
structure Params where
  nvec : Nat
  tieBreak : TieBreak
  maskGating : Bool
  deriving DecidableEq, Repr

/-- R8: an event on the LOG port. It has no architectural effect (assumption log 14). -/
inductive LogEvent where
  | unpredictable (opcode : Word)
  | accessFailed (address : Word)
  | misaligned (address : Word)
  | dropped (vector : Nat)
  deriving DecidableEq, Repr

/-- The machine. -/
structure State where
  /-- R0 to R12 (R21). -/
  gpr : Vector Word 13
  /-- The Main stack pointer (R22). -/
  spMain : Word
  /-- The Process stack pointer (R22). -/
  spProcess : Word
  /-- The link register (R25). -/
  lr : Word
  /-- The raw program counter (R26). -/
  pc : Word
  /-- The status word (R29). -/
  psr : Psr
  /-- R35. -/
  primask : Bool
  /-- R36. -/
  faultmask : Bool
  /-- R37. -/
  basepri : BitVec 8
  /-- CONTROL.SPSEL (R38). -/
  spsel : Bool
  /-- R39. -/
  mode : Mode
  /-- R40. -/
  itNew : Bool
  /-- R41, R43, R44. -/
  nvic : Nvic
  /-- R42: a set, kept in address and size order without repeats. -/
  excl : List ExclRecord
  /-- R60. -/
  mem : Memory
  /-- R61: the region map. -/
  regions : List Region
  /-- R9: the OPEN parameters. -/
  params : Params
  /-- R45: the debug stub's level. -/
  halting : Bool
  /-- R45: the run has ended. -/
  halted : Bool
  /-- R8: the LOG events emitted, newest first. -/
  log : List LogEvent
  /-- The model's own field: the number of the next draw of a free value (assumption log 4 and 5). -/
  freeIx : Nat
  deriving DecidableEq, Repr

/-- Why a step stops. -/
inductive Fault where
  /-- Raised by `step` when a cycle starts with T = 0, to which the spec gives no meaning (R33, D8, U7). Safe. -/
  | thumbStateClear
  /-- Raised by exception entry and by exception return when an access to the frame fails (R335, D38, U5). Safe. -/
  | frameAccessFailed
  /-- Raised by exception entry when the active FIFO already holds NVEC numbers (R41: "treats overflow as a fault").
  Safe. -/
  | activeStackOverflow
  deriving DecidableEq, Repr

/-- Why an instruction has no meaning. -/
inductive Refusal where
  /-- Raised by an arm of `exec` whose instruction has no meaning yet. Safe. No arm raises it now. -/
  | notModelled (mnemonic : String)
  deriving DecidableEq, Repr

/-- R44, R48: Pri[1] = -3, Pri[2] = -2, Pri[3] = -1, the others unset. -/
def resetPri (nvec : Nat) : List (Option Int) :=
  [none, some (-3), some (-2), some (-1)] ++ List.replicate (nvec - 4) none

/-- R48, R380: the controller after RESET with vector table `vt`. -/
def Nvic.reset (nvec : Nat) (vt : List Word) : Nvic where
  vt := vt
  pri := resetPri nvec
  active := List.replicate nvec false
  activeStack := []
  nested := 0
  pending := []
  prigroup := 0

/-- R380: the machine after RESET with parameters `p`, region map `rs` and memory `m`, the draws of free values going on
at `ix`. R0 to R12 and SP_process are 0: DESIGN CHOICE (assumption log 6), unsafe; the spec leaves them unspecified. -/
def State.resetWith (p : Params) (rs : List Region) (m : Memory) (ix : Nat) : State :=
  let (vt, ix') := readVectors rs m 0 ix p.nvec
  { gpr := Vector.replicate 13 0
    spMain := vt.getD 0 0 &&& 0xFFFFFFFC#32
    spProcess := 0
    lr := 0xFFFFFFFF#32
    pc := vt.getD 1 0 &&& 0xFFFFFFFE#32
    psr := { n := false, z := false, c := false, v := false, q := false, t := (vt.getD 1 0).getLsbD 0,
             itstate := 0, ipsr := 0 }
    primask := false
    faultmask := false
    basepri := 0
    spsel := false
    mode := .thread
    itNew := false
    nvic := Nvic.reset p.nvec vt
    excl := []
    mem := m
    regions := rs
    params := p
    halting := false
    halted := false
    log := []
    freeIx := ix' }

/-- R9: the default parameters. -/
def Params.default : Params := { nvec := Config.defaultNvec, tieBreak := .any, maskGating := true }

/-- The machine right after RESET, no program placed in memory (assumption log 1). -/
def State.reset : State := State.resetWith Params.default wholeSpace Memory.empty 0

end Sys2Proof.Machine
end

