-- ==== Sys2Proof/Machine/Operands.lean ====
section
/-! DEFINITION. The ALU primitives and operand forms: shifts, AddWithCarry, saturation (40_alu_primitives.md R130 to R140),
the immediates and register lists of 30_encoding.md R103, and the byte-reversal and extension forms. Everything is a
function of plain values. -/

namespace Sys2Proof.Machine

/-! ### Shifts -/

/-- R135: the shift types. -/
inductive ShiftType where
  | lsl | lsr | asr | ror | rrx
  deriving DecidableEq, Repr

/-- R130, for `n ≥ 1`. -/
def lslC (x : Word) (n : Nat) : Word × Bool := (x <<< n, decide (n ≤ 32) && x.getLsbD (32 - n))

/-- R131, for `n ≥ 1`. -/
def lsrC (x : Word) (n : Nat) : Word × Bool := (x >>> n, decide (n ≤ 32) && x.getLsbD (n - 1))

/-- R132, for `n ≥ 1`. -/
def asrC (x : Word) (n : Nat) : Word × Bool :=
  (x.sshiftRight n, if n ≤ 32 then x.getLsbD (n - 1) else x.msb)

/-- R133, for `n ≥ 1`: `m = n mod 32`. -/
def rorC (x : Word) (n : Nat) : Word × Bool :=
  let result := (x >>> (n % 32)) ||| (x <<< (32 - n % 32))
  (result, result.msb)

/-- R134. -/
def rrxC (x : Word) (carryIn : Bool) : Word × Bool := (BitVec.ofBool carryIn ++ x.extractLsb' 1 31, x.getLsbD 0)

/-- R135: result and carry of a shift; the amount 0 passes the carry through. -/
def shiftC (x : Word) (ty : ShiftType) (n : Nat) (carryIn : Bool) : Word × Bool :=
  if n = 0 then (x, carryIn)
  else
    match ty with
    | .lsl => lslC x n
    | .lsr => lsrC x n
    | .asr => asrC x n
    | .ror => rorC x n
    | .rrx => rrxC x carryIn

/-- R135: the result alone. -/
def shift (x : Word) (ty : ShiftType) (n : Nat) (carryIn : Bool) : Word := (shiftC x ty n carryIn).1

/-- R136: type and amount of an immediate shift. -/
def decodeImmShift (type2 : BitVec 2) (imm5 : BitVec 5) : ShiftType × Nat :=
  match type2 with
  | 0b00#2 => (.lsl, imm5.toNat)
  | 0b01#2 => (.lsr, if imm5 = 0 then 32 else imm5.toNat)
  | 0b10#2 => (.asr, if imm5 = 0 then 32 else imm5.toNat)
  | _ => if imm5 = 0 then (.rrx, 1) else (.ror, imm5.toNat)

/-- R135: the amount of a register-specified shift, the low byte of the register. -/
def shiftAmount (x : Word) : Nat := (x.extractLsb' 0 8).toNat

/-! ### Addition -/

/-- What AddWithCarry answers (R137). -/
structure AddResult where
  result : Word
  carry : Bool
  overflow : Bool
  deriving DecidableEq, Repr

/-- R137: the sum over the mathematical integers, narrowed; the carry is bit 32 of the unsigned sum, the overflow says
that the narrowed signed result differs from the signed sum. -/
def addWithCarry (x y : Word) (carryIn : Bool) : AddResult :=
  let usum := x.toNat + y.toNat + carryIn.toNat
  let ssum := x.toInt + y.toInt + carryIn.toNat
  let result := BitVec.ofNat 32 usum
  { result := result, carry := decide (2 ^ 32 ≤ usum), overflow := decide (result.toInt ≠ ssum) }

/-- R143: the low 32 bits of the product. -/
def mul32 (x y : Word) : Word := BitVec.ofNat 32 (x.toNat * y.toNat)

/-! ### Saturation -/

/-- R139, `1 ≤ n ≤ 32`: the clamped integer and whether it was clamped. -/
def signedSatQ (i : Int) (n : Nat) : Int × Bool :=
  let r := max (-(2 ^ (n - 1) : Int)) (min i (2 ^ (n - 1) - 1))
  (r, decide (r ≠ i))

/-- R140, `0 ≤ n ≤ 31`. -/
def unsignedSatQ (i : Int) (n : Nat) : Int × Bool :=
  let r := max 0 (min i (2 ^ n - 1))
  (r, decide (r ≠ i))

/-- One lane of a packed saturating addition (R152, R153): the low `w` bits of the answer. -/
def satAddLane (w : Nat) (a b : BitVec w) : BitVec w × Bool :=
  let r := signedSatQ (a.toInt + b.toInt) w
  (BitVec.ofInt w r.1, r.2)

/-- R152: four 8-bit lanes, and whether any clamped. -/
def qadd8 (a b : Word) : Word × Bool :=
  let l0 := satAddLane 8 (a.extractLsb' 0 8) (b.extractLsb' 0 8)
  let l1 := satAddLane 8 (a.extractLsb' 8 8) (b.extractLsb' 8 8)
  let l2 := satAddLane 8 (a.extractLsb' 16 8) (b.extractLsb' 16 8)
  let l3 := satAddLane 8 (a.extractLsb' 24 8) (b.extractLsb' 24 8)
  (l3.1 ++ l2.1 ++ l1.1 ++ l0.1, l0.2 || l1.2 || l2.2 || l3.2)

/-- R153: two 16-bit lanes, and whether any clamped. -/
def qadd16 (a b : Word) : Word × Bool :=
  let lo := satAddLane 16 (a.extractLsb' 0 16) (b.extractLsb' 0 16)
  let hi := satAddLane 16 (a.extractLsb' 16 16) (b.extractLsb' 16 16)
  (hi.1 ++ lo.1, lo.2 || hi.2)

/-! ### Immediates (R103) -/

/-- `zext_32(v)` (R11). -/
def zext {n : Nat} (v : BitVec n) : Word := v.setWidth 32

/-- `sext_32(v)` (R11). -/
def sext {n : Nat} (v : BitVec n) : Word := v.signExtend 32

/-- `zext_32(imm:'00')`: a word offset. -/
def immWord {n : Nat} (imm : BitVec n) : Word := zext (imm ++ 0#2)

/-- `zext_32(imm:'0')`: a halfword offset. -/
def immHalf {n : Nat} (imm : BitVec n) : Word := zext (imm ++ 0#1)

/-- `zext_32(i:imm5:'0')`: CBZ and CBNZ. -/
def immCompareBranch (i : Bool) (imm5 : BitVec 5) : Word := zext (bit i ++ imm5 ++ 0#1)

/-- `sext_32(imm:'0')`: a branch offset. -/
def immBranch {n : Nat} (imm : BitVec n) : Word := sext (imm ++ 0#1)

/-- `Align(v, 4)` (R11). -/
def alignWord (v : Word) : Word := v &&& 0xFFFFFFFC#32

/-- A low register's number (R21). -/
def lo (r : LowReg) : RegNum := r.setWidth 4

/-! ### Register lists (R103) -/

/-- The register numbers in ascending order. -/
def allRegs : List RegNum := [0, 1, 2, 3, 4, 5, 6, 7, 8, 9, 10, 11, 12, 13, 14, 15]

/-- The registers of a 16-bit mask, in ascending order. -/
def regsOf (mask : BitVec 16) : List RegNum := allRegs.filter (fun r => mask.getLsbD r.toNat)

/-- `BitCount(registers)`. -/
def bitCount (mask : BitVec 16) : Nat := (regsOf mask).length

/-- `4 * k` as an address offset. -/
def wordBytes (k : Nat) : Word := BitVec.ofNat 32 (4 * k)

/-- `4 * BitCount(registers)` as an address offset. -/
def listBytes (mask : BitVec 16) : Word := wordBytes (bitCount mask)

/-- `BitCount(registers)` of a list that names the PC iff `p`. -/
def countWithPc (p : Bool) (mask : BitVec 16) : Nat := bitCount mask + p.toNat

/-- The mask of STM, LDM, and of PUSH and POP without their LR or PC bit. -/
def maskLow (list : BitVec 8) : BitVec 16 := list.setWidth 16

/-- PUSH: `'0':M:'000000':register_list`. -/
def maskPush (m : Bool) (list : BitVec 8) : BitVec 16 := 0#1 ++ bit m ++ 0#6 ++ list

/-- POP without the PC bit: `'0':'0000000':register_list`; the PC is transferred apart. -/
def maskPop (list : BitVec 8) : BitVec 16 := maskLow list

/-- The 32-bit forms without the PC bit: `'0':M:'0':register_list`; bit 13 is ignored (R114). -/
def maskWide (m : Bool) (list : BitVec 13) : BitVec 16 := 0#1 ++ bit m ++ 0#1 ++ list

/-! ### Byte reversal (R262 to R264) -/

/-- R262. -/
def revWord (x : Word) : Word :=
  x.extractLsb' 0 8 ++ x.extractLsb' 8 8 ++ x.extractLsb' 16 8 ++ x.extractLsb' 24 8

/-- R263. -/
def revHalves (x : Word) : Word :=
  x.extractLsb' 16 8 ++ x.extractLsb' 24 8 ++ x.extractLsb' 0 8 ++ x.extractLsb' 8 8

/-- R264. -/
def revSigned (x : Word) : Word := sext (x.extractLsb' 0 8 ++ x.extractLsb' 8 8)

end Sys2Proof.Machine
end

