-- ==== Sys2Proof/Machine/Flags.lean ====
section
/-! DEFINITION. The status word: its assembly (10_state.md R29), the flag writes (R30, 40_alu_primitives.md R138), the
conditions and IT predicates (R141, R142) and the IT advance (30_encoding.md R100). -/

namespace Sys2Proof.Machine

/-- R138, `SetNZ`. -/
def Psr.setNZ (p : Psr) (r : Word) : Psr := { p with n := r.msb, z := r == 0 }

/-- N, Z from the result, C from the shifter (R138). -/
def Psr.setNZC (p : Psr) (r : Word) (carry : Bool) : Psr := { p with n := r.msb, z := r == 0, c := carry }

/-- N, Z, C, V of an addition (R138). -/
def Psr.setNZCV (p : Psr) (a : AddResult) : Psr :=
  { p with n := a.result.msb, z := a.result == 0, c := a.carry, v := a.overflow }

/-- R29: the status word with bit 9 = `align` (R336); every reserved bit is 0. -/
def Psr.toWord (p : Psr) (align : Bool) : Word :=
  bit p.n ++ bit p.z ++ bit p.c ++ bit p.v ++ bit p.q ++ p.itstate.extractLsb' 0 2 ++ bit p.t ++ 0#8 ++
    p.itstate.extractLsb' 2 6 ++ bit align ++ p.ipsr

/-- R340: the fields an exception return takes from the stacked word. -/
def Psr.ofWord (w : Word) : Psr where
  n := w.getLsbD 31
  z := w.getLsbD 30
  c := w.getLsbD 29
  v := w.getLsbD 28
  q := w.getLsbD 27
  t := w.getLsbD 24
  itstate := w.extractLsb' 10 6 ++ w.extractLsb' 25 2
  ipsr := w.extractLsb' 0 9

/-- The even rows of R141's table, by `cond[3:1]`. -/
def Psr.baseCondition (p : Psr) (c : BitVec 3) : Bool :=
  match c with
  | 0#3 => p.z
  | 1#3 => p.c
  | 2#3 => p.n
  | 3#3 => p.v
  | 4#3 => p.c && !p.z
  | 5#3 => p.n == p.v
  | 6#3 => !p.z && p.n == p.v
  | _ => true

/-- R141: `ConditionHolds(cond)`. -/
def Psr.conditionHolds (p : Psr) (cond : BitVec 4) : Bool :=
  if cond.getLsbD 0 && cond != 15#4 then !p.baseCondition (cond.extractLsb' 1 3)
  else p.baseCondition (cond.extractLsb' 1 3)

/-- R142. -/
def Psr.inITBlock (p : Psr) : Bool := p.itstate.extractLsb' 0 4 != 0#4

/-- R142. -/
def Psr.lastInITBlock (p : Psr) : Bool := p.itstate.extractLsb' 0 4 == 0b1000#4

/-- R113 (a): inside an IT block and not its last instruction. -/
def Psr.inITNotLast (p : Psr) : Bool := p.inITBlock && !p.lastInITBlock

/-- R142. -/
def Psr.currentCond (p : Psr) : BitVec 4 := if p.inITBlock then p.itstate.extractLsb' 4 4 else 0b1110#4

/-- R141: `ConditionPassed()`. -/
def Psr.conditionPassed (p : Psr) : Bool := p.conditionHolds p.currentCond

/-- R138: whether a 16-bit data-processing instruction writes flags. -/
def Psr.setflags (p : Psr) : Bool := !p.inITBlock

/-- R100: `ITSTATE[4:0]` shifted left, or the whole byte cleared. -/
def itAdvanceByte (it : BitVec 8) : BitVec 8 :=
  if it.extractLsb' 0 3 = 0#3 then 0 else it.extractLsb' 5 3 ++ (it.extractLsb' 0 5 <<< 1)

end Sys2Proof.Machine
end

