-- ==== Sys2Proof/Machine/Ops.lean ====
section
/-! DEFINITION. The named operations over State that the meanings and the step share: register access, memory access, the
exclusive monitor, the NVIC, exception entry and return, the PC writes, the prologue of an instruction, fetch and the IT
advance. Each cites the rule it follows. -/

namespace Sys2Proof.Machine

/-! ### Field updates -/

/-- The state with status word `p`. -/
def State.setPsr (s : State) (p : Psr) : State := { s with psr := p }

/-- The state with raw PC `a`. -/
def State.setPc (s : State) (a : Word) : State := { s with pc := a }

/-- The state with link register `v`. -/
def State.setLr (s : State) (v : Word) : State := { s with lr := v }

/-- The state with the general registers `g`. -/
def State.setGpr (s : State) (g : Vector Word 13) : State := { s with gpr := g }

/-- The state with memory `m`. -/
def State.setMem (s : State) (m : Memory) : State := { s with mem := m }

/-- The state with the reservations `e`. -/
def State.setExcl (s : State) (e : List ExclRecord) : State := { s with excl := e }

/-- The state with the controller `c`. -/
def State.setNvic (s : State) (c : Nvic) : State := { s with nvic := c }

/-- The state after LOG event `e` (R8). -/
def State.emit (s : State) (e : LogEvent) : State := { s with log := e :: s.log }

/-- The state after a free value is drawn (assumption log 4). -/
def State.draw (s : State) : State := { s with freeIx := s.freeIx + 1 }

/-! ### Registers -/

/-- R23: whether the live stack pointer bank is Process. -/
def State.liveProcess (s : State) : Bool := s.mode == .thread && s.spsel

/-- R24: a stack pointer as it is stored. -/
def spMask (v : Word) : Word := v &&& 0xFFFFFFFC#32

/-- R22, R23: the live stack pointer. -/
def State.sp (s : State) : Word := if s.liveProcess then s.spProcess else s.spMain

/-- R24: a write to the live stack pointer. -/
def State.setSp (s : State) (v : Word) : State :=
  if s.liveProcess then { s with spProcess := spMask v } else { s with spMain := spMask v }

/-- R12, R27: `x[i]`; register 15 reads the instruction's address plus 4, which is the advanced raw PC in a 32-bit
instruction (`wide`) and that plus 2 in a 16-bit one. -/
def State.readX (s : State) (wide : Bool) (r : RegNum) : Word :=
  if h : r.toNat < 13 then s.gpr[r.toNat]
  else if r = 13#4 then s.sp
  else if r = 14#4 then s.lr
  else if wide then s.pc
  else s.pc + 2

/-- `x[i]` in a 16-bit instruction. -/
def State.x16 (s : State) (r : RegNum) : Word := s.readX false r

/-- `x[i]` in a 32-bit instruction. -/
def State.x32 (s : State) (r : RegNum) : Word := s.readX true r

/-- R12: `x[i] <- v`; register 15 is never written this way, so nothing happens for it. -/
def State.writeX (s : State) (r : RegNum) (v : Word) : State :=
  if h : r.toNat < 13 then s.setGpr (s.gpr.set r.toNat v)
  else if r = 13#4 then s.setSp v
  else if r = 14#4 then s.setLr v
  else s

/-- Writes each listed register (R15: together, at the instruction's end). -/
def State.writeAll (s : State) : List (RegNum × Word) → State
  | [] => s
  | (r, v) :: rest => (s.writeX r v).writeAll rest

/-! ### Flags -/

/-- N, Z when `setflags`. -/
def State.flagsNZ (s : State) (setflags : Bool) (r : Word) : State :=
  if setflags then s.setPsr (s.psr.setNZ r) else s

/-- N, Z, C when `setflags`. -/
def State.flagsNZC (s : State) (setflags : Bool) (r : Word) (carry : Bool) : State :=
  if setflags then s.setPsr (s.psr.setNZC r carry) else s

/-- N, Z, C, V when `setflags`. -/
def State.flagsNZCV (s : State) (setflags : Bool) (a : AddResult) : State :=
  if setflags then s.setPsr (s.psr.setNZCV a) else s

/-! ### Outcomes -/

/-- The outcome type of a meaning. -/
abbrev Result := Host.Outcome State Fault Refusal

/-- What a memory access of an instruction answers: a value and the state after it, or AccessFailed (R67) with the state
in which the LOG events and the port calls already made stand. -/
inductive Access (α : Type) where
  | ok (v : α) (s : State)
  | failed (s : State)

/-- R67: goes on with the value, or ends the instruction as a no-op. -/
def Access.andThen {α : Type} (a : Access α) (k : α → State → Result) : Result :=
  match a with
  | .ok v s => k v s
  | .failed s => .next s

/-- The access after a further access. -/
def Access.bind {α β : Type} (a : Access α) (k : α → State → Access β) : Access β :=
  match a with
  | .ok v s => k v s
  | .failed s => .failed s

/-! ### The memory port -/

/-- MEM.read (R61, R62): the value, zero-extended, and the state after the call; none where the port refuses. A device
answers a free value (assumption log 4), of `size` bytes; ROM answers its stored bytes as RAM does (assumption log 22). -/
def State.portRead (s : State) (a : Word) (sz : Size) : Option (Word × State) :=
  match findRegion s.regions a.toNat sz.bytes with
  | none => none
  | some r =>
    if r.readable then
      if r.kind.isDevice then
        some (Config.freeWord s.freeIx &&& BitVec.ofNat 32 (2 ^ (8 * sz.bytes) - 1), s.draw)
      else some (s.mem.readLE a.toNat sz.bytes, s)
    else none

/-- MEM.write (R61, R62): the state after the call; none where the port refuses. A device takes the bytes; what that does
is an environment action (assumption log 4, 12). A ROM region that admits the write stores it as RAM does (assumption
log 22). -/
def State.portWrite (s : State) (a : Word) (sz : Size) (v : Word) : Option State :=
  match findRegion s.regions a.toNat sz.bytes with
  | none => none
  | some r =>
    if r.writable then
      if r.kind.isDevice then some s else some (s.setMem (s.mem.writeLE a.toNat v sz.bytes))
    else none

/-- R64: an unaligned-tolerant read. -/
def State.loadU (s : State) (a : Word) (sz : Size) : Access Word :=
  match s.portRead a sz with
  | some (v, s') => .ok v s'
  | none => .failed (s.emit (.accessFailed a))

/-- R64: an unaligned-tolerant write. -/
def State.storeU (s : State) (a : Word) (sz : Size) (v : Word) : Access Unit :=
  match s.portWrite a sz v with
  | some s' => .ok () s'
  | none => .failed (s.emit (.accessFailed a))

/-- R65: whether MemA takes the address. -/
def aligned (a : Word) (sz : Size) : Bool := a.toNat % sz.bytes == 0

/-- R65, R67: MemA's rejection of a misaligned address. -/
def State.rejectMisaligned (s : State) (a : Word) : State := (s.emit (.misaligned a)).emit (.accessFailed a)

/-- R65: an aligned read. -/
def State.loadA (s : State) (a : Word) (sz : Size) : Access Word :=
  if aligned a sz then s.loadU a sz else .failed (s.rejectMisaligned a)

/-- R65: an aligned write. -/
def State.storeA (s : State) (a : Word) (sz : Size) (v : Word) : Access Unit :=
  if aligned a sz then s.storeU a sz v else .failed (s.rejectMisaligned a)

/-- R63: word loads at ascending addresses from `a`, one for each register. -/
def State.loadRegs (s : State) (a : Word) : List RegNum → Access (List (RegNum × Word))
  | [] => .ok [] s
  | r :: rest =>
    (s.loadA a .word).bind fun v s1 =>
      (s1.loadRegs (a + 4) rest).bind fun vs s2 => .ok ((r, v) :: vs) s2

/-- R63: word loads at ascending addresses from `a`, `n` of them. -/
def State.loadWords (s : State) (a : Word) : Nat → Access (List Word)
  | 0 => .ok [] s
  | n + 1 =>
    (s.loadA a .word).bind fun v s1 =>
      (s1.loadWords (a + 4) n).bind fun vs s2 => .ok (v :: vs) s2

/-- R63: word stores at ascending addresses from `a`. -/
def State.storeWords (s : State) (a : Word) : List Word → Access Unit
  | [] => .ok () s
  | v :: rest => (s.storeA a .word v).bind fun _ s1 => s1.storeWords (a + 4) rest

/-! ### The exclusive monitor -/

/-- R75: whether the record's byte range overlaps `a .. a+n-1`. -/
def ExclRecord.overlaps (e : ExclRecord) (a n : Nat) : Bool :=
  decide (e.addr.toNat < a + n) && decide (a < e.addr.toNat + e.size.bytes)

/-- The place of a record in the canonical order. -/
def ExclRecord.before (e f : ExclRecord) : Bool :=
  decide (e.addr.toNat < f.addr.toNat) || (e.addr == f.addr && decide (e.size.bytes < f.size.bytes))

/-- R42: the set with one more record. -/
def insertExcl (e : ExclRecord) : List ExclRecord → List ExclRecord
  | [] => [e]
  | f :: rest => if e = f then f :: rest else if e.before f then e :: f :: rest else f :: insertExcl e rest

/-- The record a load of `sz` at `a` makes (R74). -/
def exclRecord (a : Word) (sz : Size) : ExclRecord := { addr := a, size := sz, owner := Config.coreId }

/-- R74: `SetExclusiveMonitor(addr, size)`. -/
def State.setExclusive (s : State) (a : Word) (sz : Size) : State := s.setExcl (insertExcl (exclRecord a sz) s.excl)

/-- R75: whether `ExclusiveMonitorsPass(addr, size)` finds a match. -/
def State.exclusiveHit (s : State) (a : Word) (sz : Size) : Bool := s.excl.contains (exclRecord a sz)

/-- R75: the records after the check, every overlapping one removed. -/
def State.consumeExclusive (s : State) (a : Word) (sz : Size) : State :=
  s.setExcl (s.excl.filter (fun e => !e.overlaps a.toNat sz.bytes))

/-- R76: `ClearExclusiveLocal()`. -/
def State.clearExclusive (s : State) : State := s.setExcl []

/-! ### Priorities and the pending store -/

/-- R325: the group priority of a raw priority; the fixed negative ones are not split. -/
def groupOf (prigroup : Fin 8) (raw : Int) : Int :=
  if raw < 0 then raw else raw - raw % (2 ^ (prigroup.val + 1) : Int)

/-- R325, R44: `sub_mask`. -/
def subMask (prigroup : Fin 8) : BitVec 8 := BitVec.ofNat 8 (2 ^ (prigroup.val + 1) - 1)

/-- R325, R44: `preempt_mask`. -/
def preemptMask (prigroup : Fin 8) : BitVec 8 := ~~~subMask prigroup

/-- R323: `Raw(n)`; an unset priority counts as 0. -/
def Nvic.raw (c : Nvic) (n : Nat) : Int := (c.pri.getD n none).getD 0

/-- R325: `GroupPri(n)`. -/
def Nvic.groupPri (c : Nvic) (n : Nat) : Int := groupOf c.prigroup (c.raw n)

/-- R325: `SubPri(n)`; nothing reads it. -/
def Nvic.subPri (c : Nvic) (n : Nat) : Int :=
  if c.raw n < 0 then 0 else c.raw n % (2 ^ (c.prigroup.val + 1) : Int)

/-- R328: the packed key. -/
def PendingKey.packed (k : PendingKey) : Int := k.gp * 512 + k.vector

/-- Puts a key at its place in the pending store. -/
def insertKey (k : PendingKey) : List PendingKey → List PendingKey
  | [] => [k]
  | j :: rest => if k.packed ≤ j.packed then k :: j :: rest else j :: insertKey k rest

/-- R330: whether `throw_exception(n)` is accepted. -/
def State.throwAccepted (s : State) (n : Nat) : Bool :=
  decide (2 ≤ n) && decide (n < s.params.nvec) && decide (s.nvic.pending.length < s.params.nvec)

/-- R330: `throw_exception(n)`. -/
def State.throwException (s : State) (n : Nat) : State :=
  if s.throwAccepted n then
    s.setNvic { s.nvic with pending := insertKey { gp := s.nvic.groupPri n, vector := n } s.nvic.pending }
  else s.emit (.dropped n)

/-- R41: `Innermost()`. -/
def Nvic.innermost (c : Nvic) : Option Nat := c.activeStack.getLast?

/-- R331: the base priority: that of the innermost active exception, 256 where there is none. -/
def Nvic.basePriority (c : Nvic) : Int :=
  match c.innermost with
  | some v => c.groupPri v
  | none => 256

/-- R331: the boost the masks give. -/
def State.boostPriority (s : State) : Int :=
  if s.faultmask then -1
  else if s.primask then 0
  else if s.basepri = 0 then 256
  else groupOf s.nvic.prigroup s.basepri.toNat

/-- R331: `ExecutionPriority()`. -/
def State.executionPriority (s : State) : Int := min s.nvic.basePriority s.boostPriority

/-- R333: the pending keys of minimal group priority. -/
def topKeys (ks : List PendingKey) : List PendingKey := ks.filter (fun k => ks.all (fun j => decide (k.gp ≤ j.gp)))

/-- R333: the keys of minimal packed value. -/
def lowestKeys (ks : List PendingKey) : List PendingKey :=
  ks.filter (fun k => ks.all (fun j => decide (k.packed ≤ j.packed)))

/-- The key the number `i` picks; one key alone is picked whatever `i` is. -/
def pickKey (i : Nat) : List PendingKey → Option PendingKey
  | [] => none
  | [k] => some k
  | ks => ks[i % ks.length]?

/-- R333: `Top(Pending)`. Under `any` it is a free choice among the keys of minimal group priority (assumption log 5). -/
def State.topPending (s : State) : Option PendingKey :=
  match s.params.tieBreak with
  | .lowestVector => (lowestKeys s.nvic.pending).head?
  | .any => pickKey (Config.freeChoice s.freeIx) (topKeys s.nvic.pending)

/-- R332: whether a key of group priority `gp` preempts. -/
def State.preempts (s : State) (gp : Int) : Bool :=
  if s.params.maskGating then decide (gp < s.executionPriority)
  else
    s.mode == .thread ||
      match s.nvic.innermost with
      | some v => decide (gp < s.nvic.groupPri v)
      | none => true

/-- R332: `check_exception()`: the vector taken and the state with its key removed, or none. Taking one counts as a
draw, whether or not the choice was free. -/
def State.checkException (s : State) : Option (Nat × State) :=
  match s.topPending with
  | none => none
  | some k =>
    if s.preempts k.gp then
      some (k.vector, (s.setNvic { s.nvic with pending := s.nvic.pending.erase k }).draw)
    else none

/-! ### Taking an exception -/

/-- R336: `fp`, from the live stack pointer. -/
def framePointer (sp : Word) : Word := (sp - 32) &&& 0xFFFFFFFB#32

/-- R336: the frame-alignment bit. -/
def frameAlign (sp : Word) : Bool := sp.getLsbD 2

/-- R335: the eight words of the frame, in ascending address order. -/
def State.frameWords (s : State) : List Word :=
  [s.gpr[0], s.gpr[1], s.gpr[2], s.gpr[3], s.gpr[12], s.lr, s.pc, s.psr.toWord (frameAlign s.sp)]

/-- R337: the EXC_RETURN value entry writes to LR. -/
def State.excReturn (s : State) : Word :=
  match s.mode with
  | .handler => 0xFFFFFFF1#32
  | .thread => if s.spsel then 0xFFFFFFFD#32 else 0xFFFFFFF9#32

/-- R334 step 5: exception `v` becomes Active, innermost. -/
def Nvic.activate (c : Nvic) (v : Nat) : Nvic :=
  { c with active := c.active.set v true, activeStack := c.activeStack ++ [v], nested := c.nested + 1 }

/-- R334 steps 2 to 5, from the state `s` before entry; `s'` is `s` after the frame is pushed. -/
def State.enterHandler (s s' : State) (v : Nat) : State :=
  let vector := s.nvic.vt.getD v 0
  { s' with
    lr := s.excReturn
    pc := vector &&& 0xFFFFFFFE#32
    mode := .handler
    psr := { s.psr with t := vector.getLsbD 0, ipsr := BitVec.ofNat 9 v, itstate := 0 }
    spsel := false
    nvic := s.nvic.activate v }

/-- R334: `handle_exception(v)`, taking an exception. A frame access that fails is a fault (R335, D38), and so is an
active FIFO already at its capacity (R41). -/
def State.takeException (s : State) (v : Nat) : Result :=
  if s.params.nvec ≤ s.nvic.activeStack.length then .fault .activeStackOverflow
  else
    match s.storeWords (framePointer s.sp) s.frameWords with
    | .failed _ => .fault .frameAccessFailed
    | .ok _ s' => .next (s.enterHandler (s'.setSp (framePointer s.sp)) v)

/-- R94 phase 6: poll the NVIC once and take the exception it answers. -/
def State.exceptionCheck (s : State) : Result :=
  match s.checkException with
  | none => .next s
  | some (v, s') => s'.takeException v

/-! ### Returning from an exception -/

/-- R337, R340: the target mode of an EXC_RETURN value and whether its frame is on the Process stack. -/
def decodeExcReturn (a : Word) : Option (Mode × Bool) :=
  match a.extractLsb' 0 4 with
  | 0b0001#4 => some (.handler, false)
  | 0b1001#4 => some (.thread, false)
  | 0b1101#4 => some (.thread, true)
  | _ => none

/-- R340 part A: the target mode, the bank and the exception that ends, or none where the return fails before the pop. -/
def State.validateReturn (s : State) (a : Word) : Option (Mode × Bool × Nat) :=
  match decodeExcReturn a with
  | none => none
  | some (target, process) =>
    match s.nvic.innermost with
    | none => none
    | some r =>
      if s.nvic.active.getD r false && !(target == .thread && s.nvic.nested != 1) then some (target, process, r)
      else none

/-- R340 part C: exception `r`, the innermost, becomes inactive. -/
def Nvic.deactivate (c : Nvic) (r : Nat) : Nvic :=
  { c with active := c.active.set r false, activeStack := c.activeStack.dropLast, nested := c.nested - 1 }

/-- R340 part B: the stack pointer above the frame at `fp`. -/
def poppedSp (fp psr : Word) : Word := spMask ((fp + 32) ||| (zext (psr.extractLsb' 9 1) <<< 2))

/-- R340 parts B and C, from the popped words. -/
def State.restoreFrame (s : State) (target : Mode) (process : Bool) (r : Nat) (fp : Word) (ws : List Word) : State :=
  let psr := ws.getD 7 0
  { s with
    gpr := ((((s.gpr.set 0 (ws.getD 0 0)).set 1 (ws.getD 1 0)).set 2 (ws.getD 2 0)).set 3 (ws.getD 3 0)).set 12
      (ws.getD 4 0)
    lr := ws.getD 5 0
    pc := ws.getD 6 0 &&& 0xFFFFFFFE#32
    spMain := if process then s.spMain else poppedSp fp psr
    spProcess := if process then poppedSp fp psr else s.spProcess
    psr := Psr.ofWord psr
    mode := target
    spsel := process
    itNew := true
    nvic := s.nvic.deactivate r }

/-- R340 part D: the mode and the restored IPSR contradict each other. -/
def State.modeMismatch (s : State) : Bool :=
  (s.mode == .handler && s.psr.ipsr == 0) || (s.mode == .thread && s.psr.ipsr != 0)

/-- R340 part D, R341: UsageFault becomes pending after a contradictory return. -/
def State.postPopCheck (s : State) : State := if s.modeMismatch then s.throwException Config.usageFault else s

/-- R340: the stack pointer of the Process or the Main bank. -/
def State.bankSp (s : State) (process : Bool) : Word := if process then s.spProcess else s.spMain

/-- R340: `ExceptionReturn(a)`. -/
def State.exceptionReturn (s : State) (a : Word) : Result :=
  match s.validateReturn a with
  | none => .next (s.throwException Config.usageFault)
  | some (target, process, r) =>
    match s.loadWords (s.bankSp process) 8 with
    | .failed _ => .fault .frameAccessFailed
    | .ok ws s' => .next (s'.restoreFrame target process r (s.bankSp process) ws).postPopCheck

/-! ### Writing the PC -/

/-- `a[31:1]:'0'`. -/
def clearBit0 (a : Word) : Word := a &&& 0xFFFFFFFE#32

/-- R145: `BranchWritePC(a)`, also `ALUWritePC` (R148). -/
def State.branchWritePC (s : State) (a : Word) : State := s.setPc (clearBit0 a)

/-- R339: whether `BXWritePC(a)` is an exception return. -/
def State.isExceptionReturn (s : State) (a : Word) : Bool :=
  s.mode == .handler && a.getLsbD 0 && a.extractLsb' 28 4 == 0xF#4

/-- R146: `BXWritePC(a)`, also `LoadWritePC` (R148). -/
def State.bxWritePC (s : State) (a : Word) : Result :=
  if s.isExceptionReturn a then s.exceptionReturn a
  else .next ((s.setPsr { s.psr with t := a.getLsbD 0 }).setPc (clearBit0 a))

/-! ### The prologue of an instruction -/

/-- R97: `UNPREDICTABLE_NOP`. -/
def State.unpredictableNop (s : State) (i : Instr) : State := s.emit (.unpredictable i.opcode)

/-- R98: the prologue, with the condition `passed`. -/
def prologue (i : Instr) (unpredictable passed : Bool) (s : State) (body : State → Result) : Result :=
  if unpredictable then .next (s.unpredictableNop i) else if passed then body s else .next s

/-- R98: the prologue of an instruction that has no condition of its own. -/
def guarded (i : Instr) (unpredictable : Bool) (s : State) (body : State → Result) : Result :=
  prologue i unpredictable s.psr.conditionPassed s body

/-- R98: the prologue of an instruction whose rule has no UNPREDICTABLE list. -/
def conditional (s : State) (body : State → Result) : Result := if s.psr.conditionPassed then body s else .next s

/-! ### The shapes the instruction rules share -/

/-- The end of a shift: the result and its flags. -/
def finishShift (rd : RegNum) (r : Word × Bool) (s : State) : Result :=
  .next ((s.writeX rd r.1).flagsNZC s.psr.setflags r.1 r.2)

/-- The end of a logical or move instruction: C and V are left (R138). -/
def finishLogic (rd : RegNum) (r : Word) (s : State) : Result :=
  .next ((s.writeX rd r).flagsNZ s.psr.setflags r)

/-- The end of an addition or subtraction. -/
def finishAdd (rd : RegNum) (a : AddResult) (s : State) : Result :=
  .next ((s.writeX rd a.result).flagsNZCV s.psr.setflags a)

/-- The end of a compare: flags always, no register (R138). -/
def finishCompare (a : AddResult) (s : State) : Result := .next (s.flagsNZCV true a)

/-- The end of an instruction that writes one register and no flag. -/
def finishWrite (rd : RegNum) (v : Word) (s : State) : Result := .next (s.writeX rd v)

/-- A single load: `x[rt]` gets what `ext` makes of the value read (R63). -/
def finishLoad (rt : RegNum) (ext : Word → Word) (a : Access Word) : Result :=
  a.andThen fun v s => .next (s.writeX rt (ext v))

/-- A single store: nothing but the port call. -/
def finishStore (a : Access Unit) : Result := a.andThen fun _ s => .next s

/-- R63: sign extension of a byte read. -/
def sextByte (v : Word) : Word := sext (v.setWidth 8)

/-- R63: sign extension of a halfword read. -/
def sextHalf (v : Word) : Word := sext (v.setWidth 16)

/-- The base register write-back of a multiple or dual transfer. -/
def State.writeBack (s : State) : Option (RegNum × Word) → State
  | none => s
  | some (n, v) => s.writeX n v

/-- A store multiple: words `x[i]` of the registers of `mask`, ascending from `start`, then the write-back. -/
def storeMultiple (mask : BitVec 16) (start : Word) (wback : Option (RegNum × Word)) (s : State) : Result :=
  (s.storeWords start ((regsOf mask).map s.x32)).andThen fun _ s1 => .next (s1.writeBack wback)

/-- A load multiple: the registers of `mask` from words ascending from `start`, then, if `pc`, the PC from the next word.
Nothing is committed before every load has succeeded; the write-back precedes the PC write (R261, R291). -/
def loadMultiple (mask : BitVec 16) (pc : Bool) (start : Word) (wback : Option (RegNum × Word)) (s : State) : Result :=
  (s.loadRegs start (regsOf mask)).andThen fun vs s1 =>
    if pc then
      (s1.loadA (start + listBytes mask) .word).andThen fun target s2 =>
        ((s2.writeAll vs).writeBack wback).bxWritePC target
    else .next ((s1.writeAll vs).writeBack wback)

/-- SP or PC, which many rules exclude. -/
def spOrPc (r : RegNum) : Bool := r == 13#4 || r == 15#4

/-- R300, R305, R306: the UNPREDICTABLE operands of the exclusive stores. -/
def strexUnpredictable (rn rt rd : RegNum) : Bool := spOrPc rd || spOrPc rt || rn == 15#4 || rd == rn || rd == rt

/-- R301, R307, R308: the UNPREDICTABLE operands of the exclusive loads. -/
def ldrexUnpredictable (rn rt : RegNum) : Bool := spOrPc rt || rn == 15#4

/-- R300, R305, R306: an exclusive store of `v` at `a`. A misaligned address is rejected before the monitor is
consulted; where the port refuses the store, the change to the monitor is not committed either (R67). -/
def storeExclusive (rd : RegNum) (a : Word) (sz : Size) (v : Word) (s : State) : Result :=
  if !aligned a sz then .next (s.rejectMisaligned a)
  else if s.exclusiveHit a sz then
    (s.storeU a sz v).andThen fun _ s1 => .next ((s1.consumeExclusive a sz).writeX rd 0)
  else .next ((s.consumeExclusive a sz).writeX rd 1)

/-- R301, R307, R308: an exclusive load at `a`; the reservation is made only if the load succeeds. -/
def loadExclusive (rt : RegNum) (a : Word) (sz : Size) (s : State) : Result :=
  (s.loadA a sz).andThen fun v s1 => .next ((s1.setExclusive a sz).writeX rt v)

/-- R302, R303: the offset address of a dual transfer. -/
def dualOffset (u : Bool) (base imm32 : Word) : Word := if u then base + imm32 else base - imm32

/-- R303, R304: two word loads, then both registers and the write-back. -/
def loadDual (rt rt2 : RegNum) (a : Word) (wback : Option (RegNum × Word)) (s : State) : Result :=
  (s.loadWords a 2).andThen fun ws s1 =>
    .next (((s1.writeX rt (ws.getD 0 0)).writeX rt2 (ws.getD 1 0)).writeBack wback)

/-- R302: two word stores, then the write-back. -/
def storeDual (rt rt2 : RegNum) (a : Word) (wback : Option (RegNum × Word)) (s : State) : Result :=
  (s.storeWords a [s.x32 rt, s.x32 rt2]).andThen fun _ s1 => .next (s1.writeBack wback)

/-- R309, R310: a table branch to `x[15] + 2 * entry`. -/
def tableBranch (a : Word) (sz : Size) (s : State) : Result :=
  (s.loadU a sz).andThen fun entry s1 => .next (s1.branchWritePC (s1.x32 15#4 + 2 * entry))

/-! ### The instruction cycle (R94) -/

/-- R94 phase 0: whether the core takes no step. -/
def State.idle (s : State) : Bool := s.halting || s.halted

/-- R91: both halfwords at the PC, always; no LOG event belongs to a refused fetch. -/
def State.fetch (s : State) : Access (Half × Half) :=
  match s.portRead s.pc .half with
  | none => .failed s
  | some (h1, s1) =>
    match s1.portRead (s.pc + 2) .half with
    | none => .failed s1
    | some (h2, s2) => .ok (h1.setWidth 16, h2.setWidth 16) s2

/-- R91, R383: the fetch was refused. -/
def State.halt (s : State) : State := { s with halted := true }

/-- R94 phase 3 and the start of phase 4: the PC past the instruction, `it_new` cleared. -/
def State.advance (s : State) (len : Nat) : State := { s with pc := s.pc + BitVec.ofNat 32 len, itNew := false }

/-- R94 phase 5, R100. -/
def State.itAdvance (s : State) : State :=
  if s.itNew then s else s.setPsr { s.psr with itstate := itAdvanceByte s.psr.itstate }

/-- R94 phases 5 and 6, after the instruction; `during` stands for what the environment does before the check (R386,
D39), nothing in the core's own step. -/
def finishCycle (during : State → State) (r : Result) : Result :=
  match r with
  | .next s => (during s.itAdvance).exceptionCheck
  | .fault f => .fault f
  | .refused e => .refused e

/-- R94: one instruction cycle, instructions running by `run`. A cycle that starts with T = 0 has no meaning (R33). -/
def cycle (run : Instr → State → Result) (during : State → State) (s : State) : Result :=
  if s.idle then .next s
  else if !s.psr.t then .fault .thumbStateClear
  else
    match s.fetch with
    | .failed s' => .next s'.halt
    | .ok (hw1, hw2) s' =>
      finishCycle during (run (decodeOpcode hw1 hw2).1 (s'.advance (decodeOpcode hw1 hw2).2))

/-- The state with `n` bytes of `v` at address `a`, placed as a loader would (assumption log 1). -/
def State.placeBytes (s : State) (a v : Word) (n : Nat) : State := s.setMem (s.mem.writeLE a.toNat v n)

end Sys2Proof.Machine
end

