-- ==== Sys2Proof/Machine/DataProc.lean ====
section
/-! DEFINITION. The 16-bit group data-processing register (42_data_processing_register.md R190 to R205). -/

namespace Sys2Proof.Machine

/-- R190: AND. -/
def execAndReg (rm rdn : LowReg) (s : State) : Result :=
  conditional s fun s => finishLogic (lo rdn) (s.x16 (lo rdn) &&& s.x16 (lo rm)) s

/-- R191: EOR. -/
def execEorReg (rm rdn : LowReg) (s : State) : Result :=
  conditional s fun s => finishLogic (lo rdn) (s.x16 (lo rdn) ^^^ s.x16 (lo rm)) s

/-- R192: LSL (register). -/
def execLslReg (rm rdn : LowReg) (s : State) : Result :=
  conditional s fun s => finishShift (lo rdn) (shiftC (s.x16 (lo rdn)) .lsl (shiftAmount (s.x16 (lo rm))) s.psr.c) s

/-- R193: LSR (register). -/
def execLsrReg (rm rdn : LowReg) (s : State) : Result :=
  conditional s fun s => finishShift (lo rdn) (shiftC (s.x16 (lo rdn)) .lsr (shiftAmount (s.x16 (lo rm))) s.psr.c) s

/-- R194: ASR (register). -/
def execAsrReg (rm rdn : LowReg) (s : State) : Result :=
  conditional s fun s => finishShift (lo rdn) (shiftC (s.x16 (lo rdn)) .asr (shiftAmount (s.x16 (lo rm))) s.psr.c) s

/-- R195: ADC. -/
def execAdcReg (rm rdn : LowReg) (s : State) : Result :=
  conditional s fun s => finishAdd (lo rdn) (addWithCarry (s.x16 (lo rdn)) (s.x16 (lo rm)) s.psr.c) s

/-- R196: SBC. -/
def execSbcReg (rm rdn : LowReg) (s : State) : Result :=
  conditional s fun s => finishAdd (lo rdn) (addWithCarry (s.x16 (lo rdn)) (~~~s.x16 (lo rm)) s.psr.c) s

/-- R197: ROR (register). -/
def execRorReg (rm rdn : LowReg) (s : State) : Result :=
  conditional s fun s => finishShift (lo rdn) (shiftC (s.x16 (lo rdn)) .ror (shiftAmount (s.x16 (lo rm))) s.psr.c) s

/-- R198: TST; N and Z always, no register. -/
def execTstReg (rm rn : LowReg) (s : State) : Result :=
  conditional s fun s => .next (s.flagsNZ true (s.x16 (lo rn) &&& s.x16 (lo rm)))

/-- R199: RSB (immediate 0). -/
def execRsbImm0 (rn rd : LowReg) (s : State) : Result :=
  conditional s fun s => finishAdd (lo rd) (addWithCarry (~~~s.x16 (lo rn)) 0 true) s

/-- R200: CMP (register, low). -/
def execCmpReg (rm rn : LowReg) (s : State) : Result :=
  conditional s fun s => finishCompare (addWithCarry (s.x16 (lo rn)) (~~~s.x16 (lo rm)) true) s

/-- R201: CMN. -/
def execCmnReg (rm rn : LowReg) (s : State) : Result :=
  conditional s fun s => finishCompare (addWithCarry (s.x16 (lo rn)) (s.x16 (lo rm)) false) s

/-- R202: ORR. -/
def execOrrReg (rm rdn : LowReg) (s : State) : Result :=
  conditional s fun s => finishLogic (lo rdn) (s.x16 (lo rdn) ||| s.x16 (lo rm)) s

/-- R203: MUL; C and V are left. -/
def execMulReg (rn rdm : LowReg) (s : State) : Result :=
  conditional s fun s => finishLogic (lo rdm) (mul32 (s.x16 (lo rn)) (s.x16 (lo rdm))) s

/-- R204: BIC. -/
def execBicReg (rm rdn : LowReg) (s : State) : Result :=
  conditional s fun s => finishLogic (lo rdn) (s.x16 (lo rdn) &&& ~~~s.x16 (lo rm)) s

/-- R205: MVN. -/
def execMvnReg (rm rd : LowReg) (s : State) : Result :=
  conditional s fun s => finishLogic (lo rd) (~~~s.x16 (lo rm)) s

end Sys2Proof.Machine
end

