-- ==== Sys2Proof/Machine/DualExclusive.lean ====
section
/-! DEFINITION. The 32-bit dual, exclusive and table-branch instructions (48_dual_exclusive_tablebranch32.md R300 to R310). -/

namespace Sys2Proof.Machine

/-- R300: STREX. -/
def execStrex (rn rt rd : RegNum) (imm8 : BitVec 8) (s : State) : Result :=
  guarded (.strex rn rt rd imm8) (strexUnpredictable rn rt rd) s fun s =>
    storeExclusive rd (s.x32 rn + immWord imm8) .word (s.x32 rt) s

/-- R301: LDREX. -/
def execLdrex (rn rt : RegNum) (sb : BitVec 4) (imm8 : BitVec 8) (s : State) : Result :=
  guarded (.ldrex rn rt sb imm8) (ldrexUnpredictable rn rt) s fun s =>
    loadExclusive rt (s.x32 rn + immWord imm8) .word s

/-- R302: STRD (immediate). -/
def execStrdImm (p u w : Bool) (rn rt rt2 : RegNum) (imm8 : BitVec 8) (s : State) : Result :=
  guarded (.strdImm p u w rn rt rt2 imm8)
    ((w && (rn == rt || rn == rt2)) || rn == 15#4 || spOrPc rt || spOrPc rt2) s fun s =>
    let offsetAddr := dualOffset u (s.x32 rn) (immWord imm8)
    storeDual rt rt2 (if p then offsetAddr else s.x32 rn) (if w then some (rn, offsetAddr) else none) s

/-- R303: LDRD (immediate). -/
def execLdrdImm (p u w : Bool) (rn rt rt2 : RegNum) (imm8 : BitVec 8) (s : State) : Result :=
  guarded (.ldrdImm p u w rn rt rt2 imm8)
    ((w && (rn == rt || rn == rt2)) || spOrPc rt || spOrPc rt2 || rt == rt2) s fun s =>
    let offsetAddr := dualOffset u (s.x32 rn) (immWord imm8)
    loadDual rt rt2 (if p then offsetAddr else s.x32 rn) (if w then some (rn, offsetAddr) else none) s

/-- R304: LDRD (literal); P is not examined. -/
def execLdrdLit (p u w : Bool) (rt rt2 : RegNum) (imm8 : BitVec 8) (s : State) : Result :=
  guarded (.ldrdLit p u w rt rt2 imm8) (spOrPc rt || spOrPc rt2 || rt == rt2 || w) s fun s =>
    loadDual rt rt2 (dualOffset u (alignWord (s.x32 15#4)) (immWord imm8)) none s

/-- R305: STREXB. -/
def execStrexb (rn rt : RegNum) (sb : BitVec 4) (rd : RegNum) (s : State) : Result :=
  guarded (.strexb rn rt sb rd) (strexUnpredictable rn rt rd) s fun s =>
    storeExclusive rd (s.x32 rn) .byte (s.x32 rt) s

/-- R306: STREXH. -/
def execStrexh (rn rt : RegNum) (sb : BitVec 4) (rd : RegNum) (s : State) : Result :=
  guarded (.strexh rn rt sb rd) (strexUnpredictable rn rt rd) s fun s =>
    storeExclusive rd (s.x32 rn) .half (s.x32 rt) s

/-- R307: LDREXB. -/
def execLdrexb (rn rt : RegNum) (sbHi sbLo : BitVec 4) (s : State) : Result :=
  guarded (.ldrexb rn rt sbHi sbLo) (ldrexUnpredictable rn rt) s fun s => loadExclusive rt (s.x32 rn) .byte s

/-- R308: LDREXH. -/
def execLdrexh (rn rt : RegNum) (sbHi sbLo : BitVec 4) (s : State) : Result :=
  guarded (.ldrexh rn rt sbHi sbLo) (ldrexUnpredictable rn rt) s fun s => loadExclusive rt (s.x32 rn) .half s

/-- R309, R310: the UNPREDICTABLE operands of the table branches. -/
def tableUnpredictable (rn rm : RegNum) (s : State) : Bool := rn == 13#4 || spOrPc rm || s.psr.inITNotLast

/-- R309: TBB. -/
def execTbb (rn : RegNum) (sb : BitVec 8) (rm : RegNum) (s : State) : Result :=
  guarded (.tbb rn sb rm) (tableUnpredictable rn rm s) s fun s => tableBranch (s.x32 rn + s.x32 rm) .byte s

/-- R310: TBH. -/
def execTbh (rn : RegNum) (sb : BitVec 8) (rm : RegNum) (s : State) : Result :=
  guarded (.tbh rn sb rm) (tableUnpredictable rn rm s) s fun s => tableBranch (s.x32 rn + (s.x32 rm <<< 1)) .half s

end Sys2Proof.Machine
end

