-- ==== Sys2Proof/Machine/LoadStore.lean ====
section
/-! DEFINITION. The 16-bit single loads and stores (44_load_store_single.md R220 to R236). Every access is one MemU call; a refused
one ends the instruction as a no-op. -/

namespace Sys2Proof.Machine

/-- R220: LDR (literal). -/
def execLdrLit (rt : LowReg) (imm8 : BitVec 8) (s : State) : Result :=
  conditional s fun s => finishLoad (lo rt) id (s.loadU (alignWord (s.x16 15#4) + immWord imm8) .word)

/-- R221 to R228: the address of a register-offset access. -/
def regOffsetAddr (s : State) (rn rm : LowReg) : Word := s.x16 (lo rn) + s.x16 (lo rm)

/-- R221: STR (register). -/
def execStrReg (rm rn rt : LowReg) (s : State) : Result :=
  conditional s fun s => finishStore (s.storeU (regOffsetAddr s rn rm) .word (s.x16 (lo rt)))

/-- R222: STRH (register). -/
def execStrhReg (rm rn rt : LowReg) (s : State) : Result :=
  conditional s fun s => finishStore (s.storeU (regOffsetAddr s rn rm) .half (s.x16 (lo rt)))

/-- R223: STRB (register). -/
def execStrbReg (rm rn rt : LowReg) (s : State) : Result :=
  conditional s fun s => finishStore (s.storeU (regOffsetAddr s rn rm) .byte (s.x16 (lo rt)))

/-- R224: LDRSB (register). -/
def execLdrsbReg (rm rn rt : LowReg) (s : State) : Result :=
  conditional s fun s => finishLoad (lo rt) sextByte (s.loadU (regOffsetAddr s rn rm) .byte)

/-- R225: LDR (register). -/
def execLdrReg (rm rn rt : LowReg) (s : State) : Result :=
  conditional s fun s => finishLoad (lo rt) id (s.loadU (regOffsetAddr s rn rm) .word)

/-- R226: LDRH (register). -/
def execLdrhReg (rm rn rt : LowReg) (s : State) : Result :=
  conditional s fun s => finishLoad (lo rt) id (s.loadU (regOffsetAddr s rn rm) .half)

/-- R227: LDRB (register). -/
def execLdrbReg (rm rn rt : LowReg) (s : State) : Result :=
  conditional s fun s => finishLoad (lo rt) id (s.loadU (regOffsetAddr s rn rm) .byte)

/-- R228: LDRSH (register). -/
def execLdrshReg (rm rn rt : LowReg) (s : State) : Result :=
  conditional s fun s => finishLoad (lo rt) sextHalf (s.loadU (regOffsetAddr s rn rm) .half)

/-- R229: STR (immediate). -/
def execStrImm (imm5 : BitVec 5) (rn rt : LowReg) (s : State) : Result :=
  conditional s fun s => finishStore (s.storeU (s.x16 (lo rn) + immWord imm5) .word (s.x16 (lo rt)))

/-- R230: LDR (immediate). -/
def execLdrImm (imm5 : BitVec 5) (rn rt : LowReg) (s : State) : Result :=
  conditional s fun s => finishLoad (lo rt) id (s.loadU (s.x16 (lo rn) + immWord imm5) .word)

/-- R231: STRB (immediate). -/
def execStrbImm (imm5 : BitVec 5) (rn rt : LowReg) (s : State) : Result :=
  conditional s fun s => finishStore (s.storeU (s.x16 (lo rn) + zext imm5) .byte (s.x16 (lo rt)))

/-- R232: LDRB (immediate). -/
def execLdrbImm (imm5 : BitVec 5) (rn rt : LowReg) (s : State) : Result :=
  conditional s fun s => finishLoad (lo rt) id (s.loadU (s.x16 (lo rn) + zext imm5) .byte)

/-- R233: STRH (immediate). -/
def execStrhImm (imm5 : BitVec 5) (rn rt : LowReg) (s : State) : Result :=
  conditional s fun s => finishStore (s.storeU (s.x16 (lo rn) + immHalf imm5) .half (s.x16 (lo rt)))

/-- R234: LDRH (immediate). -/
def execLdrhImm (imm5 : BitVec 5) (rn rt : LowReg) (s : State) : Result :=
  conditional s fun s => finishLoad (lo rt) id (s.loadU (s.x16 (lo rn) + immHalf imm5) .half)

/-- R235: STR (SP-relative). -/
def execStrSp (rt : LowReg) (imm8 : BitVec 8) (s : State) : Result :=
  conditional s fun s => finishStore (s.storeU (s.x16 13#4 + immWord imm8) .word (s.x16 (lo rt)))

/-- R236: LDR (SP-relative). -/
def execLdrSp (rt : LowReg) (imm8 : BitVec 8) (s : State) : Result :=
  conditional s fun s => finishLoad (lo rt) id (s.loadU (s.x16 13#4 + immWord imm8) .word)

end Sys2Proof.Machine
end

