-- ==== Sys2Proof/Machine/Misc16.lean ====
section
/-! DEFINITION. Address generation and the miscellaneous 16-bit group (45_misc16.md R250 to R273). -/

namespace Sys2Proof.Machine

/-- R250: ADR. -/
def execAdr (rd : LowReg) (imm8 : BitVec 8) (s : State) : Result :=
  conditional s fun s => finishWrite (lo rd) (alignWord (s.x16 15#4) + immWord imm8) s

/-- R251: ADD (SP plus 8-bit immediate). -/
def execAddSpImm8 (rd : LowReg) (imm8 : BitVec 8) (s : State) : Result :=
  conditional s fun s => finishWrite (lo rd) (s.x16 13#4 + immWord imm8) s

/-- R252: ADD (SP plus 7-bit immediate). -/
def execAddSpImm7 (imm7 : BitVec 7) (s : State) : Result :=
  conditional s fun s => finishWrite 13#4 (s.x16 13#4 + immWord imm7) s

/-- R253: SUB (SP minus 7-bit immediate). -/
def execSubSpImm7 (imm7 : BitVec 7) (s : State) : Result :=
  conditional s fun s => finishWrite 13#4 (s.x16 13#4 - immWord imm7) s

/-- R254, R255: the branch of CBZ and CBNZ. -/
def compareBranch (taken i : Bool) (imm5 : BitVec 5) (s : State) : Result :=
  .next (if taken then s.branchWritePC (s.x16 15#4 + immCompareBranch i imm5) else s)

/-- R254: CBZ. -/
def execCbz (i : Bool) (imm5 : BitVec 5) (rn : LowReg) (s : State) : Result :=
  guarded (.cbz i imm5 rn) s.psr.inITBlock s fun s => compareBranch (s.x16 (lo rn) == 0) i imm5 s

/-- R255: CBNZ. -/
def execCbnz (i : Bool) (imm5 : BitVec 5) (rn : LowReg) (s : State) : Result :=
  guarded (.cbnz i imm5 rn) s.psr.inITBlock s fun s => compareBranch (s.x16 (lo rn) != 0) i imm5 s

/-- R256: SXTH. -/
def execSxth (rm rd : LowReg) (s : State) : Result :=
  conditional s fun s => finishWrite (lo rd) (sextHalf (s.x16 (lo rm))) s

/-- R257: SXTB. -/
def execSxtb (rm rd : LowReg) (s : State) : Result :=
  conditional s fun s => finishWrite (lo rd) (sextByte (s.x16 (lo rm))) s

/-- R258: UXTH. -/
def execUxth (rm rd : LowReg) (s : State) : Result :=
  conditional s fun s => finishWrite (lo rd) (zext ((s.x16 (lo rm)).extractLsb' 0 16)) s

/-- R259: UXTB. -/
def execUxtb (rm rd : LowReg) (s : State) : Result :=
  conditional s fun s => finishWrite (lo rd) (zext ((s.x16 (lo rm)).extractLsb' 0 8)) s

/-- R260: PUSH. -/
def execPush (m : Bool) (list : BitVec 8) (s : State) : Result :=
  guarded (.push m list) (decide (bitCount (maskPush m list) < 1)) s fun s =>
    let start := s.x16 13#4 - listBytes (maskPush m list)
    storeMultiple (maskPush m list) start (some (13#4, start)) s

/-- R261: POP. -/
def execPop (p : Bool) (list : BitVec 8) (s : State) : Result :=
  guarded (.pop p list) (decide (countWithPc p (maskPop list) < 1) || (p && s.psr.inITNotLast)) s fun s =>
    loadMultiple (maskPop list) p (s.x16 13#4)
      (some (13#4, s.x16 13#4 + wordBytes (countWithPc p (maskPop list)))) s

/-- R262: REV. -/
def execRev (rm rd : LowReg) (s : State) : Result :=
  conditional s fun s => finishWrite (lo rd) (revWord (s.x16 (lo rm))) s

/-- R263: REV16. -/
def execRev16 (rm rd : LowReg) (s : State) : Result :=
  conditional s fun s => finishWrite (lo rd) (revHalves (s.x16 (lo rm))) s

/-- R264: REVSH. -/
def execRevsh (rm rd : LowReg) (s : State) : Result :=
  conditional s fun s => finishWrite (lo rd) (revSigned (s.x16 (lo rm))) s

/-- R265: the masks CPS leaves; the execution priority is the one before the instruction's writes. -/
def cpsMasks (im i f : Bool) (s : State) : State :=
  { s with
    primask := if i then im else s.primask
    faultmask := if f then (if im then s.faultmask || decide (-1 < s.executionPriority) else false) else s.faultmask }

/-- R265: CPS. -/
def execCps (im : Bool) (sb : BitVec 2) (i f : Bool) (s : State) : Result :=
  guarded (.cps im sb i f) (s.psr.inITBlock || (!i && !f)) s fun s => .next (cpsMasks im i f s)

/-- R266: BKPT changes nothing and skips the condition check. -/
def execBkpt (_imm8 : BitVec 8) (s : State) : Result := .next s

/-- How many bits of an IT mask are 1 (R267). -/
def maskOnes (mask : BitVec 4) : Nat :=
  (mask.getLsbD 0).toNat + (mask.getLsbD 1).toNat + (mask.getLsbD 2).toNat + (mask.getLsbD 3).toNat

/-- R267: IT. -/
def execIt (firstcond mask : BitVec 4) (s : State) : Result :=
  guarded (.it firstcond mask) (firstcond == 15#4 || (firstcond == 14#4 && maskOnes mask != 1) || s.psr.inITBlock) s
    fun s => .next { s with psr := { s.psr with itstate := firstcond ++ mask }, itNew := true }

/-- R268: NOP. -/
def execNop (s : State) : Result := conditional s fun s => .next s

/-- R269: YIELD; there is no other thread. -/
def execYield (s : State) : Result := conditional s fun s => .next s

/-- R270: WFE; the core does not suspend. -/
def execWfe (s : State) : Result := conditional s fun s => .next s

/-- R271: WFI; the core does not wait. -/
def execWfi (s : State) : Result := conditional s fun s => .next s

/-- R272: SEV; there is no event register. -/
def execSev (s : State) : Result := conditional s fun s => .next s

/-- R273: the unallocated hints execute as NOP. -/
def execHintUnallocated (_opA : BitVec 4) (s : State) : Result := conditional s fun s => .next s

end Sys2Proof.Machine
end

