-- ==== Sys2Proof/Machine/Multiple32.lean ====
section
/-! DEFINITION. The 32-bit load and store multiples (47_load_store_multiple32.md R290 to R295). The mask leaves out the PC bit, which
the load forms transfer apart, and bit 13, which is ignored. -/

namespace Sys2Proof.Machine

/-- The common part of the UNPREDICTABLE lists of R290, R291, R293, R295: `k` registers, write-back with Rn listed. -/
def multipleUnpredictable (w : Bool) (rn : RegNum) (mask : BitVec 16) (k : Nat) : Bool :=
  rn == 15#4 || decide (k < 2) || (w && mask.getLsbD rn.toNat)

/-- The UNPREDICTABLE conditions of a list that may name the PC (R291, R292, R295). -/
def pcListUnpredictable (p m : Bool) (s : State) : Bool := (p && m) || (p && s.psr.inITNotLast)

/-- R290: STM.W. -/
def execStmW (w : Bool) (rn : RegNum) (sb15 m sb13 : Bool) (list : BitVec 13) (s : State) : Result :=
  let mask := maskWide m list
  guarded (.stmW w rn sb15 m sb13 list) (multipleUnpredictable w rn mask (bitCount mask)) s fun s =>
    let base := s.x32 rn
    storeMultiple mask base (if w then some (rn, base + listBytes mask) else none) s

/-- R291: LDM.W. -/
def execLdmW (w : Bool) (rn : RegNum) (p m sb13 : Bool) (list : BitVec 13) (s : State) : Result :=
  let mask := maskWide m list
  guarded (.ldmW w rn p m sb13 list)
    (multipleUnpredictable w rn mask (countWithPc p mask) || pcListUnpredictable p m s) s fun s =>
    let base := s.x32 rn
    loadMultiple mask p base (if w then some (rn, base + wordBytes (countWithPc p mask)) else none) s

/-- R292: POP.W. -/
def execPopW (p m sb13 : Bool) (list : BitVec 13) (s : State) : Result :=
  let mask := maskWide m list
  guarded (.popW p m sb13 list) (decide (countWithPc p mask < 2) || pcListUnpredictable p m s) s fun s =>
    loadMultiple mask p (s.x32 13#4) (some (13#4, s.x32 13#4 + wordBytes (countWithPc p mask))) s

/-- R293: STMDB. -/
def execStmdb (w : Bool) (rn : RegNum) (sb15 m sb13 : Bool) (list : BitVec 13) (s : State) : Result :=
  let mask := maskWide m list
  guarded (.stmdb w rn sb15 m sb13 list) (multipleUnpredictable w rn mask (bitCount mask)) s fun s =>
    let start := s.x32 rn - listBytes mask
    storeMultiple mask start (if w then some (rn, start) else none) s

/-- R294: PUSH.W. -/
def execPushW (sb15 m sb13 : Bool) (list : BitVec 13) (s : State) : Result :=
  let mask := maskWide m list
  guarded (.pushW sb15 m sb13 list) (decide (bitCount mask < 2)) s fun s =>
    let start := s.x32 13#4 - listBytes mask
    storeMultiple mask start (some (13#4, start)) s

/-- R295: LDMDB. -/
def execLdmdb (w : Bool) (rn : RegNum) (p m sb13 : Bool) (list : BitVec 13) (s : State) : Result :=
  let mask := maskWide m list
  guarded (.ldmdb w rn p m sb13 list)
    (multipleUnpredictable w rn mask (countWithPc p mask) || pcListUnpredictable p m s) s fun s =>
    let start := s.x32 rn - wordBytes (countWithPc p mask)
    loadMultiple mask p start (if w then some (rn, start) else none) s

end Sys2Proof.Machine
end

