-- ==== Sys2Proof/Machine/MultipleBranch.lean ====
section
/-! DEFINITION. The 16-bit multiples, branches and SVC (46_multiple16_branch_svc.md R280 to R285). -/

namespace Sys2Proof.Machine

/-- R280: STM; the write-back is always made. -/
def execStm (rn : LowReg) (list : BitVec 8) (s : State) : Result :=
  guarded (.stm rn list) (decide (bitCount (maskLow list) < 1)) s fun s =>
    let base := s.x16 (lo rn)
    storeMultiple (maskLow list) base (some (lo rn, base + listBytes (maskLow list))) s

/-- R281: LDM; the write-back is made iff Rn is not in the list. -/
def execLdm (rn : LowReg) (list : BitVec 8) (s : State) : Result :=
  guarded (.ldm rn list) (decide (bitCount (maskLow list) < 1)) s fun s =>
    let base := s.x16 (lo rn)
    loadMultiple (maskLow list) false base
      (if list.getLsbD rn.toNat then none else some (lo rn, base + listBytes (maskLow list))) s

/-- R282: B<cond>, conditional on its own field. -/
def execBCond (cond : BitVec 4) (imm8 : BitVec 8) (s : State) : Result :=
  prologue (.bCond cond imm8) s.psr.inITBlock (s.psr.conditionHolds cond) s fun s =>
    .next (s.branchWritePC (s.x16 15#4 + immBranch imm8))

/-- R283: the permanently undefined slot. -/
def execUnpredUdf (imm8 : BitVec 8) (s : State) : Result := .next (s.unpredictableNop (.unpredUdf imm8))

/-- R284: SVC makes SVCall pending; the check at the end of the cycle takes it if it wins. -/
def execSvc (_imm8 : BitVec 8) (s : State) : Result :=
  conditional s fun s => .next (s.throwException Config.svCall)

/-- R285: B. -/
def execB (imm11 : BitVec 11) (s : State) : Result :=
  guarded (.b imm11) s.psr.inITNotLast s fun s => .next (s.branchWritePC (s.x16 15#4 + immBranch imm11))

end Sys2Proof.Machine
end

