-- ==== Sys2Proof/Machine/ShiftAddSub.lean ====
section
/-! DEFINITION. The 16-bit group shift/add/sub/mov (41_shift_add_sub_mov.md R170 to R181). -/

namespace Sys2Proof.Machine

/-- R170: LSL (immediate). -/
def execLslImm (imm5 : BitVec 5) (rm rd : LowReg) (s : State) : Result :=
  conditional s fun s => finishShift (lo rd) (shiftC (s.x16 (lo rm)) .lsl imm5.toNat s.psr.c) s

/-- R171: MOVS (register); UNPREDICTABLE inside an IT block, so it always writes N and Z. -/
def execMovsReg (rm rd : LowReg) (s : State) : Result :=
  guarded (.movsReg rm rd) s.psr.inITBlock s fun s => finishLogic (lo rd) (s.x16 (lo rm)) s

/-- R172: LSR (immediate). -/
def execLsrImm (imm5 : BitVec 5) (rm rd : LowReg) (s : State) : Result :=
  conditional s fun s => finishShift (lo rd) (shiftC (s.x16 (lo rm)) .lsr (decodeImmShift 0b01#2 imm5).2 s.psr.c) s

/-- R173: ASR (immediate). -/
def execAsrImm (imm5 : BitVec 5) (rm rd : LowReg) (s : State) : Result :=
  conditional s fun s => finishShift (lo rd) (shiftC (s.x16 (lo rm)) .asr (decodeImmShift 0b10#2 imm5).2 s.psr.c) s

/-- R174: ADD (register). -/
def execAddReg (rm rn rd : LowReg) (s : State) : Result :=
  conditional s fun s => finishAdd (lo rd) (addWithCarry (s.x16 (lo rn)) (s.x16 (lo rm)) false) s

/-- R175: SUB (register). -/
def execSubReg (rm rn rd : LowReg) (s : State) : Result :=
  conditional s fun s => finishAdd (lo rd) (addWithCarry (s.x16 (lo rn)) (~~~s.x16 (lo rm)) true) s

/-- R176: ADD (3-bit immediate). -/
def execAddImm3 (imm3 : BitVec 3) (rn rd : LowReg) (s : State) : Result :=
  conditional s fun s => finishAdd (lo rd) (addWithCarry (s.x16 (lo rn)) (zext imm3) false) s

/-- R177: SUB (3-bit immediate). -/
def execSubImm3 (imm3 : BitVec 3) (rn rd : LowReg) (s : State) : Result :=
  conditional s fun s => finishAdd (lo rd) (addWithCarry (s.x16 (lo rn)) (~~~zext imm3) true) s

/-- R178: MOV (immediate). -/
def execMovImm (rd : LowReg) (imm8 : BitVec 8) (s : State) : Result :=
  conditional s fun s => finishLogic (lo rd) (zext imm8) s

/-- R179: CMP (immediate). -/
def execCmpImm (rn : LowReg) (imm8 : BitVec 8) (s : State) : Result :=
  conditional s fun s => finishCompare (addWithCarry (s.x16 (lo rn)) (~~~zext imm8) true) s

/-- R180: ADD (8-bit immediate). -/
def execAddImm8 (rdn : LowReg) (imm8 : BitVec 8) (s : State) : Result :=
  conditional s fun s => finishAdd (lo rdn) (addWithCarry (s.x16 (lo rdn)) (zext imm8) false) s

/-- R181: SUB (8-bit immediate). -/
def execSubImm8 (rdn : LowReg) (imm8 : BitVec 8) (s : State) : Result :=
  conditional s fun s => finishAdd (lo rdn) (addWithCarry (s.x16 (lo rdn)) (~~~zext imm8) true) s

end Sys2Proof.Machine
end

