-- ==== Sys2Proof/Machine/SpecialData.lean ====
section
/-! DEFINITION. The 16-bit group special-data and branch-exchange (43_special_data_bx.md R210 to R215). -/

namespace Sys2Proof.Machine

/-- R145, R148: a computed value goes to register `rd`, or, for the PC, through `ALUWritePC`. -/
def finishAluWrite (rd : RegNum) (v : Word) (s : State) : Result :=
  .next (if rd = 15#4 then s.branchWritePC v else s.writeX rd v)

/-- R210: ADD (register, high). -/
def execAddHi (rm rdn : RegNum) (s : State) : Result :=
  guarded (.addHi rm rdn) ((rdn == 15#4 && rm == 15#4) || (rdn == 15#4 && s.psr.inITNotLast)) s fun s =>
    finishAluWrite rdn (addWithCarry (s.x16 rdn) (s.x16 rm) false).result s

/-- R215: the CMP pattern with both registers low, an unpredictable slot. -/
def execUnpredCmpLowLow (low6 : BitVec 6) (s : State) : Result := .next (s.unpredictableNop (.unpredCmpLowLow low6))

/-- R211: CMP (register, high). -/
def execCmpHi (rm rn : RegNum) (s : State) : Result :=
  guarded (.cmpHi rm rn) (rn == 15#4 || rm == 15#4) s fun s =>
    finishCompare (addWithCarry (s.x16 rn) (~~~s.x16 rm) true) s

/-- R212: MOV (register, high). -/
def execMovHi (rm rd : RegNum) (s : State) : Result :=
  guarded (.movHi rm rd) (rd == 15#4 && s.psr.inITNotLast) s fun s => finishAluWrite rd (s.x16 rm) s

/-- R213: BX. -/
def execBx (rm : RegNum) (sb : BitVec 3) (s : State) : Result :=
  guarded (.bx rm sb) (s.psr.inITNotLast || rm == 15#4) s fun s => s.bxWritePC (s.x16 rm)

/-- R214: BLX (register); the target is read before LR is written. -/
def execBlxReg (rm : RegNum) (sb : BitVec 3) (s : State) : Result :=
  guarded (.blxReg rm sb) (rm == 15#4 || s.psr.inITNotLast) s fun s =>
    (s.setLr (clearBit0 s.pc ||| 1)).bxWritePC (s.x16 rm)

end Sys2Proof.Machine
end

