-- ==== Sys2Proof/Machine/Unpredictable.lean ====
section
/-! DEFINITION. The unpredictable executor of the two fallback rows (30_encoding.md R97): log and do nothing. -/

namespace Sys2Proof.Machine

/-- R97, R112 (b), R274: an unmapped 16-bit opcode. -/
def execUnpredNop16 (hw : Half) (s : State) : Result := .next (s.unpredictableNop (.unpredNop16 hw))

/-- R97, R112 (d), R311: an unmapped 32-bit opcode. -/
def execUnpredNop32 (hw1 hw2 : Half) (s : State) : Result := .next (s.unpredictableNop (.unpredNop32 hw1 hw2))

end Sys2Proof.Machine
end

