-- ==== Sys2Proof/Machine/Dispatch.lean ====
section
/-! DEFINITION. The one dispatch: an arm for every constructor of Instr, each one call of its meaning. -/

namespace Sys2Proof.Machine

def exec (i : Instr) (s : State) : Host.Outcome State Fault Refusal :=
  match i with
  | .lslImm imm5 rm rd => Sys2Proof.Machine.execLslImm imm5 rm rd s
  | .movsReg rm rd => Sys2Proof.Machine.execMovsReg rm rd s
  | .lsrImm imm5 rm rd => Sys2Proof.Machine.execLsrImm imm5 rm rd s
  | .asrImm imm5 rm rd => Sys2Proof.Machine.execAsrImm imm5 rm rd s
  | .addReg rm rn rd => Sys2Proof.Machine.execAddReg rm rn rd s
  | .subReg rm rn rd => Sys2Proof.Machine.execSubReg rm rn rd s
  | .addImm3 imm3 rn rd => Sys2Proof.Machine.execAddImm3 imm3 rn rd s
  | .subImm3 imm3 rn rd => Sys2Proof.Machine.execSubImm3 imm3 rn rd s
  | .movImm rd imm8 => Sys2Proof.Machine.execMovImm rd imm8 s
  | .cmpImm rn imm8 => Sys2Proof.Machine.execCmpImm rn imm8 s
  | .addImm8 rdn imm8 => Sys2Proof.Machine.execAddImm8 rdn imm8 s
  | .subImm8 rdn imm8 => Sys2Proof.Machine.execSubImm8 rdn imm8 s
  | .andReg rm rdn => Sys2Proof.Machine.execAndReg rm rdn s
  | .eorReg rm rdn => Sys2Proof.Machine.execEorReg rm rdn s
  | .lslReg rm rdn => Sys2Proof.Machine.execLslReg rm rdn s
  | .lsrReg rm rdn => Sys2Proof.Machine.execLsrReg rm rdn s
  | .asrReg rm rdn => Sys2Proof.Machine.execAsrReg rm rdn s
  | .adcReg rm rdn => Sys2Proof.Machine.execAdcReg rm rdn s
  | .sbcReg rm rdn => Sys2Proof.Machine.execSbcReg rm rdn s
  | .rorReg rm rdn => Sys2Proof.Machine.execRorReg rm rdn s
  | .tstReg rm rn => Sys2Proof.Machine.execTstReg rm rn s
  | .rsbImm0 rn rd => Sys2Proof.Machine.execRsbImm0 rn rd s
  | .cmpReg rm rn => Sys2Proof.Machine.execCmpReg rm rn s
  | .cmnReg rm rn => Sys2Proof.Machine.execCmnReg rm rn s
  | .orrReg rm rdn => Sys2Proof.Machine.execOrrReg rm rdn s
  | .mulReg rn rdm => Sys2Proof.Machine.execMulReg rn rdm s
  | .bicReg rm rdn => Sys2Proof.Machine.execBicReg rm rdn s
  | .mvnReg rm rd => Sys2Proof.Machine.execMvnReg rm rd s
  | .addHi rm rdn => Sys2Proof.Machine.execAddHi rm rdn s
  | .unpredCmpLowLow low6 => Sys2Proof.Machine.execUnpredCmpLowLow low6 s
  | .cmpHi rm rn => Sys2Proof.Machine.execCmpHi rm rn s
  | .movHi rm rd => Sys2Proof.Machine.execMovHi rm rd s
  | .bx rm sb => Sys2Proof.Machine.execBx rm sb s
  | .blxReg rm sb => Sys2Proof.Machine.execBlxReg rm sb s
  | .ldrLit rt imm8 => Sys2Proof.Machine.execLdrLit rt imm8 s
  | .strReg rm rn rt => Sys2Proof.Machine.execStrReg rm rn rt s
  | .strhReg rm rn rt => Sys2Proof.Machine.execStrhReg rm rn rt s
  | .strbReg rm rn rt => Sys2Proof.Machine.execStrbReg rm rn rt s
  | .ldrsbReg rm rn rt => Sys2Proof.Machine.execLdrsbReg rm rn rt s
  | .ldrReg rm rn rt => Sys2Proof.Machine.execLdrReg rm rn rt s
  | .ldrhReg rm rn rt => Sys2Proof.Machine.execLdrhReg rm rn rt s
  | .ldrbReg rm rn rt => Sys2Proof.Machine.execLdrbReg rm rn rt s
  | .ldrshReg rm rn rt => Sys2Proof.Machine.execLdrshReg rm rn rt s
  | .strImm imm5 rn rt => Sys2Proof.Machine.execStrImm imm5 rn rt s
  | .ldrImm imm5 rn rt => Sys2Proof.Machine.execLdrImm imm5 rn rt s
  | .strbImm imm5 rn rt => Sys2Proof.Machine.execStrbImm imm5 rn rt s
  | .ldrbImm imm5 rn rt => Sys2Proof.Machine.execLdrbImm imm5 rn rt s
  | .strhImm imm5 rn rt => Sys2Proof.Machine.execStrhImm imm5 rn rt s
  | .ldrhImm imm5 rn rt => Sys2Proof.Machine.execLdrhImm imm5 rn rt s
  | .strSp rt imm8 => Sys2Proof.Machine.execStrSp rt imm8 s
  | .ldrSp rt imm8 => Sys2Proof.Machine.execLdrSp rt imm8 s
  | .adr rd imm8 => Sys2Proof.Machine.execAdr rd imm8 s
  | .addSpImm8 rd imm8 => Sys2Proof.Machine.execAddSpImm8 rd imm8 s
  | .addSpImm7 imm7 => Sys2Proof.Machine.execAddSpImm7 imm7 s
  | .subSpImm7 imm7 => Sys2Proof.Machine.execSubSpImm7 imm7 s
  | .cbz ib imm5 rn => Sys2Proof.Machine.execCbz ib imm5 rn s
  | .cbnz ib imm5 rn => Sys2Proof.Machine.execCbnz ib imm5 rn s
  | .sxth rm rd => Sys2Proof.Machine.execSxth rm rd s
  | .sxtb rm rd => Sys2Proof.Machine.execSxtb rm rd s
  | .uxth rm rd => Sys2Proof.Machine.execUxth rm rd s
  | .uxtb rm rd => Sys2Proof.Machine.execUxtb rm rd s
  | .push m list => Sys2Proof.Machine.execPush m list s
  | .pop p list => Sys2Proof.Machine.execPop p list s
  | .rev rm rd => Sys2Proof.Machine.execRev rm rd s
  | .rev16 rm rd => Sys2Proof.Machine.execRev16 rm rd s
  | .revsh rm rd => Sys2Proof.Machine.execRevsh rm rd s
  | .cps im sb ip fm => Sys2Proof.Machine.execCps im sb ip fm s
  | .bkpt imm8 => Sys2Proof.Machine.execBkpt imm8 s
  | .it firstcond mask => Sys2Proof.Machine.execIt firstcond mask s
  | .nop => Sys2Proof.Machine.execNop s
  | .yield => Sys2Proof.Machine.execYield s
  | .wfe => Sys2Proof.Machine.execWfe s
  | .wfi => Sys2Proof.Machine.execWfi s
  | .sev => Sys2Proof.Machine.execSev s
  | .hintUnallocated opA => Sys2Proof.Machine.execHintUnallocated opA s
  | .stm rn list => Sys2Proof.Machine.execStm rn list s
  | .ldm rn list => Sys2Proof.Machine.execLdm rn list s
  | .bCond cond imm8 => Sys2Proof.Machine.execBCond cond imm8 s
  | .unpredUdf imm8 => Sys2Proof.Machine.execUnpredUdf imm8 s
  | .svc imm8 => Sys2Proof.Machine.execSvc imm8 s
  | .b imm11 => Sys2Proof.Machine.execB imm11 s
  | .stmW w rn sb15 m sb13 list => Sys2Proof.Machine.execStmW w rn sb15 m sb13 list s
  | .ldmW w rn p m sb13 list => Sys2Proof.Machine.execLdmW w rn p m sb13 list s
  | .popW p m sb13 list => Sys2Proof.Machine.execPopW p m sb13 list s
  | .stmdb w rn sb15 m sb13 list => Sys2Proof.Machine.execStmdb w rn sb15 m sb13 list s
  | .pushW sb15 m sb13 list => Sys2Proof.Machine.execPushW sb15 m sb13 list s
  | .ldmdb w rn p m sb13 list => Sys2Proof.Machine.execLdmdb w rn p m sb13 list s
  | .strex rn rt rd imm8 => Sys2Proof.Machine.execStrex rn rt rd imm8 s
  | .ldrex rn rt sb imm8 => Sys2Proof.Machine.execLdrex rn rt sb imm8 s
  | .strdImm p u w rn rt rt2 imm8 => Sys2Proof.Machine.execStrdImm p u w rn rt rt2 imm8 s
  | .ldrdImm p u w rn rt rt2 imm8 => Sys2Proof.Machine.execLdrdImm p u w rn rt rt2 imm8 s
  | .ldrdLit p u w rt rt2 imm8 => Sys2Proof.Machine.execLdrdLit p u w rt rt2 imm8 s
  | .strexb rn rt sb rd => Sys2Proof.Machine.execStrexb rn rt sb rd s
  | .strexh rn rt sb rd => Sys2Proof.Machine.execStrexh rn rt sb rd s
  | .ldrexb rn rt sbHi sbLo => Sys2Proof.Machine.execLdrexb rn rt sbHi sbLo s
  | .ldrexh rn rt sbHi sbLo => Sys2Proof.Machine.execLdrexh rn rt sbHi sbLo s
  | .tbb rn sb rm => Sys2Proof.Machine.execTbb rn sb rm s
  | .tbh rn sb rm => Sys2Proof.Machine.execTbh rn sb rm s
  | .unpredNop16 hw => Sys2Proof.Machine.execUnpredNop16 hw s
  | .unpredNop32 hw1 hw2 => Sys2Proof.Machine.execUnpredNop32 hw1 hw2 s

end Sys2Proof.Machine
end

