-- ==== Sys2Proof/Machine/AluOps.lean ====
section
/-! DEFINITION. The operations of the semantics layer that no decode-table slot reaches, invoked through the ALUOP port
with decoded operands (40_alu_primitives.md R150 to R154). Operands outside their ranges have no effect (assumption log
19, 21), and a failing condition leaves the operation not executed (assumption log 20). -/

namespace Sys2Proof.Machine

/-- The shift of SSAT and USAT: LSL by 0 to 31 or ASR by 1 to 31 (R150). -/
inductive SatShift where
  | lsl (amount : Nat)
  | asr (amount : Nat)
  deriving DecidableEq, Repr

/-- Whether the amount is one the rule allows. -/
def SatShift.valid : SatShift → Bool
  | .lsl n => decide (n ≤ 31)
  | .asr n => decide (1 ≤ n) && decide (n ≤ 31)

/-- The shifted operand. -/
def SatShift.apply (sh : SatShift) (x : Word) (carry : Bool) : Word :=
  match sh with
  | .lsl n => shift x .lsl n carry
  | .asr n => shift x .asr n carry

/-- An ALUOP invocation. -/
inductive AluOp where
  | ssat (d n : RegNum) (saturateTo : Nat) (sh : SatShift)
  | usat (d n : RegNum) (saturateTo : Nat) (sh : SatShift)
  | qadd8 (d n m : RegNum)
  | qadd16 (d n m : RegNum)
  | clrex
  deriving DecidableEq, Repr

/-- Whether the operands are in range: the registers 0 to 12 and 14, `saturate_to` and the shift as R150 and R151 give
them. R150 gives the register range for SSAT; R151 to R153 name d, n and m without one, and taking R150's for them is the
model's choice (DESIGN CHOICE, assumption log 21). -/
def AluOp.valid : AluOp → Bool
  | .ssat d n sat sh => !spOrPc d && !spOrPc n && decide (1 ≤ sat) && decide (sat ≤ 32) && sh.valid
  | .usat d n sat sh => !spOrPc d && !spOrPc n && decide (sat ≤ 31) && sh.valid
  | .qadd8 d n m => !spOrPc d && !spOrPc n && !spOrPc m
  | .qadd16 d n m => !spOrPc d && !spOrPc n && !spOrPc m
  | .clrex => true

/-- R31: Q is only ever set by a saturating operation. -/
def State.setQ (s : State) (saturated : Bool) : State := s.setPsr { s.psr with q := s.psr.q || saturated }

/-- R150: SSAT. -/
def ssatOp (d n : RegNum) (saturateTo : Nat) (sh : SatShift) (s : State) : State :=
  let r := signedSatQ (sh.apply (s.x16 n) s.psr.c).toInt saturateTo
  (s.writeX d (BitVec.ofInt 32 r.1)).setQ r.2

/-- R151: USAT. -/
def usatOp (d n : RegNum) (saturateTo : Nat) (sh : SatShift) (s : State) : State :=
  let r := unsignedSatQ (sh.apply (s.x16 n) s.psr.c).toInt saturateTo
  (s.writeX d (BitVec.ofInt 32 r.1)).setQ r.2

/-- R152: QADD8. -/
def qadd8Op (d n m : RegNum) (s : State) : State :=
  let r := qadd8 (s.x16 n) (s.x16 m)
  (s.writeX d r.1).setQ r.2

/-- R153: QADD16. -/
def qadd16Op (d n m : RegNum) (s : State) : State :=
  let r := qadd16 (s.x16 n) (s.x16 m)
  (s.writeX d r.1).setQ r.2

/-- R154: CLREX. -/
def clrexOp (s : State) : State := s.clearExclusive

/-- The ALUOP port (R8), with the prologue of R98: operands out of range have no effect (assumption log 19), and where the
current condition fails the operation is not executed. 40_alu_primitives.md section 6 takes R15's template, prologue
included, for these five; that it holds for them although R15 speaks of files 41 to 48 and R98 of mapped executors is
the model's reading (DEDUCED, assumption log 20). An invocation is no cycle, so it does not advance ITSTATE. -/
def aluOp (op : AluOp) (s : State) : State :=
  if op.valid && s.psr.conditionPassed then
    match op with
    | .ssat d n sat sh => ssatOp d n sat sh s
    | .usat d n sat sh => usatOp d n sat sh s
    | .qadd8 d n m => qadd8Op d n m s
    | .qadd16 d n m => qadd16Op d n m s
    | .clrex => clrexOp s
  else s

end Sys2Proof.Machine
end

