-- ==== Sys2Proof/Machine/Environment.lean ====
section
/-! DEFINITION. What the environment does to the core through the ports of 00_scope.md R8, between cycles or just before
the exception check (70_reset_and_hazards.md R386, assumption log 12). -/

namespace Sys2Proof.Machine

/-- R8: the registers of the SYSREG port. -/
inductive SpecialReg where
  | primask | faultmask | basepri | control | spMain | spProcess
  deriving DecidableEq, Repr

/-- R8: `read_special(name)`; CONTROL has SPSEL at bit 1 (R38). -/
def State.readSpecial (s : State) : SpecialReg → Word
  | .primask => zext (bit s.primask)
  | .faultmask => zext (bit s.faultmask)
  | .basepri => zext s.basepri
  | .control => zext (bit s.spsel ++ 0#1)
  | .spMain => s.spMain
  | .spProcess => s.spProcess

/-- R8, R24, R35 to R38: `write_special(name, value)`; bits a register does not have are ignored. -/
def State.writeSpecial (s : State) (r : SpecialReg) (v : Word) : State :=
  match r with
  | .primask => { s with primask := v.getLsbD 0 }
  | .faultmask => { s with faultmask := v.getLsbD 0 }
  | .basepri => { s with basepri := v.extractLsb' 0 8 }
  | .control => { s with spsel := v.getLsbD 1 }
  | .spMain => { s with spMain := spMask v }
  | .spProcess => { s with spProcess := spMask v }

/-- R326: `set_priority(n, raw)`; pending keys are not recomputed. -/
def State.setPriority (s : State) (n : Nat) (raw : Int) : State :=
  if 4 ≤ n ∧ n < s.params.nvec ∧ 0 ≤ raw ∧ raw ≤ 255 then
    s.setNvic { s.nvic with pri := s.nvic.pri.set n (some raw) }
  else s

/-- R327: `set_prigroup(p)`; pending keys are not recomputed. -/
def State.setPrigroup (s : State) (p : Nat) : State :=
  if h : p < 8 then s.setNvic { s.nvic with prigroup := ⟨p, h⟩ } else s

/-- An action on a port of R8. Of the debug writes, which R351 leaves a model to allow or exclude, the model has those of
R0 to R12, the live SP, LR and the raw PC, and none of the status word (N, Z, C, V, Q, T, ITSTATE, IPSR): DESIGN CHOICE,
assumption log 18. -/
inductive EnvAction where
  /-- NVIC.throw. -/
  | throwExc (vector : Nat)
  /-- NVIC.config. -/
  | setPriority (vector : Nat) (raw : Int)
  /-- NVIC.config. -/
  | setPrigroup (p : Nat)
  /-- SYSREG. -/
  | writeSpecial (r : SpecialReg) (v : Word)
  /-- ALUOP. -/
  | alu (op : AluOp)
  /-- HALT: the level of `halting`. -/
  | setHalting (level : Bool)
  /-- DBG. It is outside the invariant that bit 0 of the raw PC is 0 (R26). -/
  | setRawPc (a : Word)
  /-- DBG: a write of R0 to R12, the live SP or LR (R351, R386); 15 names nothing here, the raw PC being `setRawPc`'s. -/
  | writeReg (r : RegNum) (v : Word)
  /-- A collaborator changes a byte of memory (R386); no reservation is broken by it (R77). -/
  | writeByte (a : Word) (b : Byte)
  /-- R380: RESET, applicable to any state. -/
  | reset
  deriving DecidableEq, Repr

/-- R380: RESET of a running machine: the state of a fresh reset over the same memory, region map and parameters. The
level of `halting` is an input and the LOG events are history, so both stay. -/
def State.resetAgain (s : State) : State :=
  { State.resetWith s.params s.regions s.mem s.freeIx with halting := s.halting, log := s.log }

/-- The state after an environment action. -/
def applyEnv (e : EnvAction) (s : State) : State :=
  match e with
  | .throwExc n => s.throwException n
  | .setPriority n raw => s.setPriority n raw
  | .setPrigroup p => s.setPrigroup p
  | .writeSpecial r v => s.writeSpecial r v
  | .alu op => aluOp op s
  | .setHalting level => { s with halting := level }
  | .setRawPc a => s.setPc a
  | .writeReg r v => s.writeX r v
  | .writeByte a b => s.setMem (s.mem.writeByte a.toNat b)
  | .reset => s.resetAgain

/-- The state after environment actions, the first of the list first. -/
def applyEnvs : List EnvAction → State → State
  | [], s => s
  | e :: rest, s => applyEnvs rest (applyEnv e s)

end Sys2Proof.Machine
end

