-- ==== Sys2Proof/Machine/Step.lean ====
section
/-! DEFINITION. The step: one instruction cycle (30_encoding.md R94), the cycle with the environment's actions around it,
and the placing of the next instruction. Everything they do stands in Ops.lean, Decode.lean and Environment.lean. -/

namespace Sys2Proof.Machine

/-- R94: one instruction cycle of the core, the environment silent. -/
def step (s : State) : Host.Outcome State Fault Refusal := cycle exec id s

/-- R94, R386: one instruction cycle with the environment's actions: `before` between the cycles, `during` just before
the exception check of a cycle that is run (assumption log 12). -/
def systemStep (before during : List EnvAction) (s : State) : Host.Outcome State Fault Refusal :=
  cycle exec (applyEnvs during) (applyEnvs before s)

/-- `s` with the instruction whose bits are `w` (numbered as the table numbers them) stored at the PC, both halfwords that
fetch reads; what keeps the cycle from running it is cleared: T = 0 and the two states in which the core takes no step. -/
def State.withFetchWord (s : State) (nbits w : Nat) : State :=
  let s1 := s.placeBytes s.pc ((tableHalves nbits w).1.setWidth 32) 2
  let s2 := s1.placeBytes (s.pc + 2) ((tableHalves nbits w).2.setWidth 32) 2
  { s2 with psr := { s2.psr with t := true }, halting := false, halted := false }

end Sys2Proof.Machine
end

