-- ==== Sys2Proof/Safety.lean ====
section
/-! DEFINITION. The terms claims are stated in: what an instruction leaves unchanged, where a step ends, what the port
answers, and the invariant that every step keeps. -/

namespace Sys2Proof.Machine

/-! ### Frames -/

/-- No byte of memory is changed. -/
def SameMemory (s t : State) : Prop := ∀ a : Nat, t.mem.readByte a = s.mem.readByte a

/-- No byte of memory is changed outside the `n` bytes from `a`. -/
def SameMemoryOutside (s t : State) (a n : Nat) : Prop :=
  ∀ b : Nat, ¬(a ≤ b ∧ b < a + n) → t.mem.readByte b = s.mem.readByte b

/-- No byte of memory is changed outside the `k` words at `start`, `start + 4`, … (addresses modulo 2^32, R80). -/
def SameMemoryOutsideWords (s t : State) (start : Word) (k : Nat) : Prop :=
  ∀ b : Nat, (∀ j < k, ¬((start + BitVec.ofNat 32 (4 * j)).toNat ≤ b ∧
    b < (start + BitVec.ofNat 32 (4 * j)).toNat + 4)) → t.mem.readByte b = s.mem.readByte b

/-- Every numbered register but the PC and those of `rs` is unchanged, and so is the stack pointer bank that is not
live. -/
structure RegFrame (s t : State) (rs : List RegNum) : Prop where
  regs : ∀ r : RegNum, r ≠ 15#4 → r ∉ rs → t.x32 r = s.x32 r
  otherBank : if s.liveProcess then t.spMain = s.spMain else t.spProcess = s.spProcess

/-- The special registers, the mode and the controller are unchanged, and so are the parameters and the run state. -/
structure ControlFrame (s t : State) : Prop where
  primask : t.primask = s.primask
  faultmask : t.faultmask = s.faultmask
  basepri : t.basepri = s.basepri
  spsel : t.spsel = s.spsel
  mode : t.mode = s.mode
  itNew : t.itNew = s.itNew
  nvic : t.nvic = s.nvic
  regions : t.regions = s.regions
  params : t.params = s.params
  halting : t.halting = s.halting
  halted : t.halted = s.halted

/-- The frame of an instruction that writes the registers `rs` and neither the monitor nor the LOG. -/
structure Frame (s t : State) (rs : List RegNum) : Prop extends RegFrame s t rs, ControlFrame s t where
  excl : t.excl = s.excl
  log : t.log = s.log

/-- The instruction has no effect but the LOG event `e`. -/
def OnlyLogs (i : Instr) (s : State) (e : LogEvent) : Prop := exec i s = .next (s.emit e)

/-- The instruction has no effect but the two LOG events of a misaligned MemA at `a` (R65, R67; their order is assumption
log 19). -/
def RejectsMisaligned (i : Instr) (s : State) (a : Word) : Prop :=
  exec i s = .next ((s.emit (.misaligned a)).emit (.accessFailed a))

/-! ### What the port answers -/

/-- Whether the region map admits a read (R61). -/
def State.readable (s : State) (a : Word) (sz : Size) : Bool :=
  match findRegion s.regions a.toNat sz.bytes with
  | some r => r.readable
  | none => false

/-- Whether the region map admits a write (R61). -/
def State.writable (s : State) (a : Word) (sz : Size) : Bool :=
  match findRegion s.regions a.toNat sz.bytes with
  | some r => r.writable
  | none => false

/-- Whether the region that holds the access is a device's. -/
def State.isDevice (s : State) (a : Word) (sz : Size) : Bool :=
  match findRegion s.regions a.toNat sz.bytes with
  | some r => r.kind.isDevice
  | none => false

/-- The value an admitted read answers: the bytes of memory, or a device's free value. -/
def State.readValue (s : State) (a : Word) (sz : Size) : Word :=
  if s.isDevice a sz then Config.freeWord s.freeIx &&& BitVec.ofNat 32 (2 ^ (8 * sz.bytes) - 1)
  else s.mem.readLE a.toNat sz.bytes

/-- What an admitted store of the low bytes of `v` at `a` leaves in memory; a device's cells are not touched. -/
def StoredAt (s t : State) (a : Word) (sz : Size) (v : Word) : Prop :=
  SameMemoryOutside s t a.toNat sz.bytes ∧
    if s.isDevice a sz then SameMemory s t
    else ∀ k < sz.bytes, t.mem.readByte (a.toNat + k) = (v >>> (8 * k)).setWidth 8

/-- The address of the j-th word of a multiple transfer (R63, R80). -/
def wordAt (start : Word) (j : Nat) : Word := start + BitVec.ofNat 32 (4 * j)

/-- Every one of `k` words from `start` may be read. -/
def State.wordsReadable (s : State) (start : Word) (k : Nat) : Prop := ∀ j < k, s.readable (wordAt start j) .word = true

/-- Every one of `k` words from `start` may be written. -/
def State.wordsWritable (s : State) (start : Word) (k : Nat) : Prop := ∀ j < k, s.writable (wordAt start j) .word = true

/-- No one of `k` words from `start` is a device's. -/
def State.wordsPlain (s : State) (start : Word) (k : Nat) : Prop := ∀ j < k, s.isDevice (wordAt start j) .word = false

/-- What a store of the registers `regs`, word after word from `start`, leaves in memory, no device among the words. -/
def StoredWords (s t : State) (start : Word) (regs : List RegNum) : Prop :=
  SameMemoryOutsideWords s t start regs.length ∧
    ∀ j r, regs[j]? = some r → t.mem.readLE (wordAt start j).toNat 4 = s.x32 r

/-- The registers of `regs` hold the words from `start`. -/
def LoadedWords (s t : State) (start : Word) (regs : List RegNum) : Prop :=
  ∀ j r, regs[j]? = some r → r ≠ 13#4 → t.x32 r = s.mem.readLE (wordAt start j).toNat 4

/-! ### Results -/

/-- The instruction ends in a next state of which `P` holds. -/
def Completes (i : Instr) (s : State) (P : State → Prop) : Prop := ∃ t, exec i s = .next t ∧ P t

/-- Only the registers `rs` and the flags may differ; no byte of memory, and the PC is past the instruction. -/
def Writes (s t : State) (rs : List RegNum) : Prop := Frame s t rs ∧ SameMemory s t ∧ t.pc = s.pc

/-- As `Writes`, with every flag unchanged. -/
def WritesNoFlags (s t : State) (rs : List RegNum) : Prop := Writes s t rs ∧ t.psr = s.psr

/-- The decoder reads the 16-bit opcode as the instruction, whatever halfword follows (R90, R92). -/
def DecodesAs (hw : Half) (i : Instr) : Prop := ∀ hw2 : Half, decodeOpcode hw hw2 = (i, 2)

/-- The decoder reads the 32-bit opcode as the instruction (R90, R92). -/
def DecodesAs32 (hw1 hw2 : Half) (i : Instr) : Prop := decodeOpcode hw1 hw2 = (i, 4)

/-- Only the PC differs. -/
def OnlyBranches (s t : State) (target : Word) : Prop :=
  t.pc = target ∧ t.psr = s.psr ∧ Frame s t [] ∧ SameMemory s t

/-- The status word with N and Z of `r`, unless inside an IT block (R138). -/
def Psr.afterNZ (p : Psr) (r : Word) : Psr :=
  if p.inITBlock then p else { p with n := r.getLsbD 31, z := decide (r = 0#32) }

/-- The status word with N, Z of `r` and carry `c`, unless inside an IT block (R138). -/
def Psr.afterNZC (p : Psr) (r : Word) (c : Bool) : Psr :=
  if p.inITBlock then p else { p with n := r.getLsbD 31, z := decide (r = 0#32), c := c }

/-- The status word with N, Z of `r`, carry `c` and overflow `v` (R138). -/
def Psr.withNZCV (p : Psr) (r : Word) (c v : Bool) : Psr :=
  { p with n := r.getLsbD 31, z := decide (r = 0#32), c := c, v := v }

/-- The carry of `x + y + b` over the naturals (R137). -/
def sumCarry (x y : Word) (b : Nat) : Bool := decide (2 ^ 32 ≤ x.toNat + y.toNat + b)

/-- The signed overflow of `x + y + b` (R137). -/
def sumOverflow (x y : Word) (b : Nat) : Bool :=
  decide ((x + y + BitVec.ofNat 32 b).toInt ≠ x.toInt + y.toInt + b)

/-- The carry of `x - y - b`, which is "no borrow" (R137, R175). -/
def diffCarry (x y : Word) (b : Nat) : Bool := decide (y.toNat + b ≤ x.toNat)

/-- The signed overflow of `x - y - b` (R137). -/
def diffOverflow (x y : Word) (b : Nat) : Bool :=
  decide ((x - y - BitVec.ofNat 32 b).toInt ≠ x.toInt - y.toInt - b)

/-- `rd` gets `x + y + b`, the flags N, Z, C, V of it outside an IT block, and nothing else happens. -/
def AddsInto (i : Instr) (s : State) (rd : RegNum) (x y : Word) (b : Nat) : Prop :=
  Completes i s fun t =>
    t.x32 rd = x + y + BitVec.ofNat 32 b ∧
      t.psr = (if s.psr.inITBlock then s.psr
        else s.psr.withNZCV (x + y + BitVec.ofNat 32 b) (sumCarry x y b) (sumOverflow x y b)) ∧
      Writes s t [rd]

/-- `rd` gets `x - y - b`, the flags N, Z, C, V of it outside an IT block, and nothing else happens. -/
def SubtractsInto (i : Instr) (s : State) (rd : RegNum) (x y : Word) (b : Nat) : Prop :=
  Completes i s fun t =>
    t.x32 rd = x - y - BitVec.ofNat 32 b ∧
      t.psr = (if s.psr.inITBlock then s.psr
        else s.psr.withNZCV (x - y - BitVec.ofNat 32 b) (diffCarry x y b) (diffOverflow x y b)) ∧
      Writes s t [rd]

/-- The flags N, Z, C, V of `x - y`, always, and nothing else. -/
def Compares (i : Instr) (s : State) (x y : Word) : Prop :=
  Completes i s fun t =>
    t.psr = s.psr.withNZCV (x - y) (diffCarry x y 0) (diffOverflow x y 0) ∧ Writes s t []

/-- `rd` gets `r`, N and Z of it outside an IT block, and nothing else happens. -/
def LogicInto (i : Instr) (s : State) (rd : RegNum) (r : Word) : Prop :=
  Completes i s fun t => t.x32 rd = r ∧ t.psr = s.psr.afterNZ r ∧ Writes s t [rd]

/-- `rd` gets `r` and nothing else happens. -/
def MovesInto (i : Instr) (s : State) (rd : RegNum) (r : Word) : Prop :=
  Completes i s fun t => t.x32 rd = r ∧ WritesNoFlags s t [rd]

/-- A load of `sz` at `a` into `rt`: what `ext` makes of the value where the port admits the read, a logged no-op
where it does not. -/
def LoadsInto (i : Instr) (s : State) (rt : RegNum) (a : Word) (sz : Size) (ext : Word → Word) : Prop :=
  if s.readable a sz then
    Completes i s fun t => t.x32 rt = ext (s.readValue a sz) ∧ WritesNoFlags s t [rt]
  else OnlyLogs i s (.accessFailed a)

/-- A store of the low bytes of `v` at `a`, or a logged no-op where the port refuses it. -/
def StoresAt (i : Instr) (s : State) (a : Word) (sz : Size) (v : Word) : Prop :=
  if s.writable a sz then
    Completes i s fun t => StoredAt s t a sz v ∧ Frame s t [] ∧ t.psr = s.psr ∧ t.pc = s.pc
  else OnlyLogs i s (.accessFailed a)

/-! ### Transfers of several words -/

/-- Inside an IT block and not its last instruction (R113 (a)). -/
def State.midIT (s : State) : Prop := s.psr.inITBlock = true ∧ s.psr.lastInITBlock = false

/-- `StoreForm s i regs start wb`: in state `s` the instruction `i`, free of UNPREDICTABLE operands, stores the registers
`regs` to the words from `start` and then makes the write-back `wb` (R260, R280, R290, R293, R294, R302). -/
inductive StoreForm (s : State) : Instr → List RegNum → Word → Option (RegNum × Word) → Prop where
  | stm (n : LowReg) (l : BitVec 8) : 1 ≤ bitCount (maskLow l) →
      StoreForm s (.stm n l) (regsOf (maskLow l)) (s.x32 (lo n))
        (some (lo n, s.x32 (lo n) + BitVec.ofNat 32 (4 * bitCount (maskLow l))))
  | push (m : Bool) (l : BitVec 8) (start : Word) : 1 ≤ bitCount (maskPush m l) →
      start = s.sp - BitVec.ofNat 32 (4 * bitCount (maskPush m l)) →
      StoreForm s (.push m l) (regsOf (maskPush m l)) start (some (13#4, start))
  | pushW (sb15 m sb13 : Bool) (l : BitVec 13) (start : Word) : 2 ≤ bitCount (maskWide m l) →
      start = s.sp - BitVec.ofNat 32 (4 * bitCount (maskWide m l)) →
      StoreForm s (.pushW sb15 m sb13 l) (regsOf (maskWide m l)) start (some (13#4, start))
  | stmW (w : Bool) (n : RegNum) (sb15 m sb13 : Bool) (l : BitVec 13) : 2 ≤ bitCount (maskWide m l) → n ≠ 15#4 →
      ¬(w = true ∧ n ∈ regsOf (maskWide m l)) →
      StoreForm s (.stmW w n sb15 m sb13 l) (regsOf (maskWide m l)) (s.x32 n)
        (if w then some (n, s.x32 n + BitVec.ofNat 32 (4 * bitCount (maskWide m l))) else none)
  | stmdb (w : Bool) (n : RegNum) (sb15 m sb13 : Bool) (l : BitVec 13) (start : Word) : 2 ≤ bitCount (maskWide m l) →
      n ≠ 15#4 → ¬(w = true ∧ n ∈ regsOf (maskWide m l)) →
      start = s.x32 n - BitVec.ofNat 32 (4 * bitCount (maskWide m l)) →
      StoreForm s (.stmdb w n sb15 m sb13 l) (regsOf (maskWide m l)) start (if w then some (n, start) else none)
  | strd (p u w : Bool) (n t t2 : RegNum) (i : BitVec 8) (offset : Word) : ¬(w = true ∧ (n = t ∨ n = t2)) → n ≠ 15#4 →
      t ∉ [13#4, 15#4] → t2 ∉ [13#4, 15#4] →
      offset = (if u then s.x32 n + (i ++ 0#2).setWidth 32 else s.x32 n - (i ++ 0#2).setWidth 32) →
      StoreForm s (.strdImm p u w n t t2 i) [t, t2] (if p then offset else s.x32 n)
        (if w then some (n, offset) else none)

/-- `LoadForm s i regs pc start wb`: in state `s` the instruction `i`, free of UNPREDICTABLE operands, loads the registers
`regs` from the words from `start` and then, where `pc`, the PC from the next word, and makes the write-back `wb` (R261,
R281, R291, R292, R295, R303, R304). -/
inductive LoadForm (s : State) : Instr → List RegNum → Bool → Word → Option (RegNum × Word) → Prop where
  | ldm (n : LowReg) (l : BitVec 8) : 1 ≤ bitCount (maskLow l) →
      LoadForm s (.ldm n l) (regsOf (maskLow l)) false (s.x32 (lo n))
        (if lo n ∈ regsOf (maskLow l) then none
          else some (lo n, s.x32 (lo n) + BitVec.ofNat 32 (4 * bitCount (maskLow l))))
  | pop (p : Bool) (l : BitVec 8) : 1 ≤ bitCount (maskLow l) + p.toNat → ¬(p = true ∧ s.midIT) →
      LoadForm s (.pop p l) (regsOf (maskLow l)) p s.sp
        (some (13#4, s.sp + BitVec.ofNat 32 (4 * (bitCount (maskLow l) + p.toNat))))
  | popW (p m sb13 : Bool) (l : BitVec 13) : 2 ≤ bitCount (maskWide m l) + p.toNat → ¬(p = true ∧ m = true) →
      ¬(p = true ∧ s.midIT) →
      LoadForm s (.popW p m sb13 l) (regsOf (maskWide m l)) p s.sp
        (some (13#4, s.sp + BitVec.ofNat 32 (4 * (bitCount (maskWide m l) + p.toNat))))
  | ldmW (w : Bool) (n : RegNum) (p m sb13 : Bool) (l : BitVec 13) : 2 ≤ bitCount (maskWide m l) + p.toNat → n ≠ 15#4 →
      ¬(w = true ∧ n ∈ regsOf (maskWide m l)) → ¬(p = true ∧ m = true) → ¬(p = true ∧ s.midIT) →
      LoadForm s (.ldmW w n p m sb13 l) (regsOf (maskWide m l)) p (s.x32 n)
        (if w then some (n, s.x32 n + BitVec.ofNat 32 (4 * (bitCount (maskWide m l) + p.toNat))) else none)
  | ldmdb (w : Bool) (n : RegNum) (p m sb13 : Bool) (l : BitVec 13) (start : Word) :
      2 ≤ bitCount (maskWide m l) + p.toNat → n ≠ 15#4 → ¬(w = true ∧ n ∈ regsOf (maskWide m l)) →
      ¬(p = true ∧ m = true) → ¬(p = true ∧ s.midIT) →
      start = s.x32 n - BitVec.ofNat 32 (4 * (bitCount (maskWide m l) + p.toNat)) →
      LoadForm s (.ldmdb w n p m sb13 l) (regsOf (maskWide m l)) p start (if w then some (n, start) else none)
  | ldrd (p u w : Bool) (n t t2 : RegNum) (i : BitVec 8) (offset : Word) : ¬(w = true ∧ (n = t ∨ n = t2)) → n ≠ 15#4 →
      t ∉ [13#4, 15#4] → t2 ∉ [13#4, 15#4] → t ≠ t2 →
      offset = (if u then s.x32 n + (i ++ 0#2).setWidth 32 else s.x32 n - (i ++ 0#2).setWidth 32) →
      LoadForm s (.ldrdImm p u w n t t2 i) [t, t2] false (if p then offset else s.x32 n)
        (if w then some (n, offset) else none)
  | ldrdLit (p u : Bool) (t t2 : RegNum) (i : BitVec 8) : t ∉ [13#4, 15#4] → t2 ∉ [13#4, 15#4] → t ≠ t2 →
      LoadForm s (.ldrdLit p u false t t2 i) [t, t2] false
        (if u then (s.pc &&& 0xFFFFFFFC#32) + (i ++ 0#2).setWidth 32
          else (s.pc &&& 0xFFFFFFFC#32) - (i ++ 0#2).setWidth 32) none

/-- Whether the instruction is one of the rows that transfer several words. -/
def transfersWords : Instr → Bool
  | .stm .. | .push .. | .pushW .. | .stmW .. | .stmdb .. | .strdImm .. => true
  | .ldm .. | .pop .. | .popW .. | .ldmW .. | .ldmdb .. | .ldrdImm .. | .ldrdLit .. => true
  | _ => false

/-- The stores of `regs` from `start` with the write-back `wb`, its words aligned and admitted. -/
def StoresMultiple (i : Instr) (s : State) (regs : List RegNum) (start : Word) (wb : Option (RegNum × Word)) : Prop :=
  Completes i s fun t =>
    SameMemoryOutsideWords s t start regs.length ∧ (s.wordsPlain start regs.length → StoredWords s t start regs) ∧
      (∀ n v, wb = some (n, v) → t.x32 n = v) ∧ Frame s t (wb.map Prod.fst).toList ∧ t.psr = s.psr ∧ t.pc = s.pc

/-- The loads of `regs` from `start` with the write-back `wb`, its words aligned and admitted. -/
def LoadsMultiple (i : Instr) (s : State) (regs : List RegNum) (start : Word) (wb : Option (RegNum × Word)) : Prop :=
  Completes i s fun t =>
    (s.wordsPlain start regs.length → LoadedWords s t start regs) ∧ (∀ n v, wb = some (n, v) → t.x32 n = v) ∧
      WritesNoFlags s t ((wb.map Prod.fst).toList ++ regs)

/-- A load multiple whose list ends with the PC, outside an exception return: `vs` are the registers' values and
`target` the PC's. -/
def LoadsMultiplePc (i : Instr) (s : State) (vs : List (RegNum × Word)) (target : Word)
    (wb : Option (RegNum × Word)) : Prop :=
  Completes i s fun t =>
    (∀ p ∈ vs, t.x32 p.1 = p.2) ∧ (∀ n v, wb = some (n, v) → t.x32 n = v) ∧
      t.pc = target &&& 0xFFFFFFFE#32 ∧ t.psr = { s.psr with t := target.getLsbD 0 } ∧
      Frame s t ((wb.map Prod.fst).toList ++ vs.map Prod.fst) ∧ SameMemory s t

/-- Whether the record's bytes and the `n` bytes from `a` meet (R75). -/
def ExclRecord.Meets (e : ExclRecord) (a n : Nat) : Prop :=
  ∃ b, e.addr.toNat ≤ b ∧ b < e.addr.toNat + e.size.bytes ∧ a ≤ b ∧ b < a + n

/-- The records left by an exclusive store of `sz` at `a` (R75). -/
def ConsumesRecords (s t : State) (a : Word) (sz : Size) : Prop :=
  ∀ e, e ∈ t.excl ↔ e ∈ s.excl ∧ ¬e.Meets a.toNat sz.bytes

/-- An exclusive load of `sz` at `a` into `rt` (R301, R307, R308). -/
def LoadsExclusive (i : Instr) (s : State) (rt : RegNum) (a : Word) (sz : Size) : Prop :=
  if a.toNat % sz.bytes ≠ 0 then RejectsMisaligned i s a
  else if s.readable a sz then
    Completes i s fun t =>
      t.x32 rt = s.readValue a sz ∧ (∀ e, e ∈ t.excl ↔ e ∈ s.excl ∨ e = ⟨a, sz, 0⟩) ∧
        RegFrame s t [rt] ∧ ControlFrame s t ∧ t.log = s.log ∧ SameMemory s t ∧ t.psr = s.psr ∧ t.pc = s.pc
  else OnlyLogs i s (.accessFailed a)

/-- An exclusive store of `sz` at `a` with result in `rd` (R300, R305, R306). -/
def StoresExclusive (i : Instr) (s : State) (rd : RegNum) (a : Word) (sz : Size) (v : Word) : Prop :=
  if a.toNat % sz.bytes ≠ 0 then RejectsMisaligned i s a
  else if (⟨a, sz, 0⟩ : ExclRecord) ∈ s.excl ∧ s.writable a sz = false then OnlyLogs i s (.accessFailed a)
  else
    Completes i s fun t =>
      (if (⟨a, sz, 0⟩ : ExclRecord) ∈ s.excl then t.x32 rd = 0 ∧ StoredAt s t a sz v
        else t.x32 rd = 1 ∧ SameMemory s t) ∧
        ConsumesRecords s t a sz ∧ RegFrame s t [rd] ∧ ControlFrame s t ∧ t.log = s.log ∧ t.psr = s.psr ∧ t.pc = s.pc

/-- What the frame of exception entry at `fp` holds: the eight words of R335. -/
def FrameHolds (s t : State) (fp : Word) : Prop :=
  t.mem.readLE (wordAt fp 0).toNat 4 = s.x32 0#4 ∧ t.mem.readLE (wordAt fp 1).toNat 4 = s.x32 1#4 ∧
    t.mem.readLE (wordAt fp 2).toNat 4 = s.x32 2#4 ∧ t.mem.readLE (wordAt fp 3).toNat 4 = s.x32 3#4 ∧
    t.mem.readLE (wordAt fp 4).toNat 4 = s.x32 12#4 ∧ t.mem.readLE (wordAt fp 5).toNat 4 = s.lr ∧
    t.mem.readLE (wordAt fp 6).toNat 4 = s.pc ∧
    Psr.ofWord (t.mem.readLE (wordAt fp 7).toNat 4) = s.psr ∧
    (t.mem.readLE (wordAt fp 7).toNat 4).getLsbD 9 = s.sp.getLsbD 2

/-! ### The invariant -/

/-- What holds between cycles (10_state.md R46), in the form every step keeps. The parts of R46 that priorities rewritten
while active, or a frame altered by software, can break are left out: the count of Active flags, and `ITSTATE[3:0] = 0`
only with `ITSTATE = 0`. Of "Handler iff nested > 0" the direction that always holds is kept (R46 (b), 90_conflicts.md
C9). -/
structure Inv (s : State) : Prop where
  nvecRange : Config.minNvec ≤ s.params.nvec ∧ s.params.nvec ≤ Config.maxNvec
  vtLength : s.nvic.vt.length = s.params.nvec
  priLength : s.nvic.pri.length = s.params.nvec
  activeLength : s.nvic.active.length = s.params.nvec
  priFixed : s.nvic.pri[1]? = some (some (-3)) ∧ s.nvic.pri[2]? = some (some (-2)) ∧ s.nvic.pri[3]? = some (some (-1))
  priRange : ∀ n r, 4 ≤ n → s.nvic.pri[n]? = some (some r) → 0 ≤ r ∧ r ≤ 255
  nestedDepth : s.nvic.nested = s.nvic.activeStack.length
  stackCapacity : s.nvic.activeStack.length ≤ s.params.nvec
  stackNumbers : ∀ v ∈ s.nvic.activeStack, 2 ≤ v ∧ v < s.params.nvec
  pendingCapacity : s.nvic.pending.length ≤ s.params.nvec
  pendingKeys : ∀ k ∈ s.nvic.pending, 2 ≤ k.vector ∧ k.vector < s.params.nvec ∧ -2 ≤ k.gp ∧ k.gp ≤ 255
  pendingOrder : s.nvic.pending.Pairwise (fun j k => j.packed ≤ k.packed)
  threadIdle : s.mode = .thread → s.nvic.activeStack = []
  pcEven : s.pc.getLsbD 0 = false
  spMainAligned : s.spMain.extractLsb' 0 2 = 0#2
  spProcessAligned : s.spProcess.extractLsb' 0 2 = 0#2
  memoryForm : s.mem.wf = true
  exclOrder : s.excl.Pairwise (fun e f => e.before f = true)
  exclOwner : ∀ e ∈ s.excl, e.owner = Config.coreId

end Sys2Proof.Machine
end

