-- ==== Sys2Proof/Certificates/Slice0/Obligations.lean ====
section
/-! DEFINITION. The statements for the provers, drawn from the spec's numbered rules. -/

open Sys2Proof Sys2Proof.Machine

/-- Decoding the bytes of any well-formed instruction gives the instruction back. For every well-formed instruction and
any bytes after it, decode answers exactly that instruction, with every operand, and those bytes. Spec:
30_encoding.md R101, R102, R108, R110, R118. -/
def Obligations.DecodeOfEncodeIsIdentity : Prop :=
  ∀ (i : Instr) (rest : List Byte), i.wellFormed = true → decode (encodeBytes i ++ rest) = .ok (i, rest)

/-- Encoding what the decoder read gives the halfwords back: decoding is complete and drops no bit. For every two
halfwords the decoder answers a well-formed instruction whose encoding is the opcode itself, two halfwords and 4
bytes with a 32-bit prefix, one halfword and 2 bytes without. Spec: 30_encoding.md R90, R92, R117. -/
def Obligations.EncodeOfDecodeIsIdentity : Prop :=
  ∀ hw1 hw2 : Half,
    (decodeOpcode hw1 hw2).1.wellFormed = true ∧
      encode (decodeOpcode hw1 hw2).1 = (if is32BitPrefix hw1 then [hw1, hw2] else [hw1]) ∧
      (decodeOpcode hw1 hw2).2 = (if is32BitPrefix hw1 then 4 else 2)

/-- Every step from a state of the invariant ends in a state of the invariant. If Inv holds and step answers a next
state, Inv holds there: memory canonical, PC even, stack pointers word aligned, Thread mode only with nothing
active, depth and pending store within bounds, fixed priorities fixed. Spec: 10_state.md R46;
70_reset_and_hazards.md R387. -/
def Obligations.StepKeepsInvariant : Prop :=
  ∀ s t : State, Inv s → step s = .next t → Inv t

/-- Taking an exception and returning from it at once with BX LR restores the interrupted state. From a consistent
state, if an exception whose frame lies in plain readable memory is taken, BX LR in the handler gives the state
before, but for memory (the frame was written) and the transient it_new. That the region map of the state decides
what the port admits and that ROM behaves as RAM is the model's choice (log 3, log 22). Spec: 60_exceptions.md R334,
R336, R337, R340, R342. -/
def Obligations.EntryThenReturnRestoresState : Prop :=
  ∀ (s t : State) (v : Nat) (sb : BitVec 3), Inv s → s.nvic.active[v]? = some false →
    (s.mode = .thread ↔ s.psr.ipsr = 0#9) → (s.mode = .handler → s.spsel = false) →
    s.wordsReadable (framePointer s.sp) 8 → s.wordsPlain (framePointer s.sp) 8 →
    s.takeException v = .next t →
    exec (.bx 14#4 sb) t = .next { s with mem := t.mem, itNew := true }

/-- In Thread mode every instruction ends in a next state. No instruction faults or is refused in Thread mode, whatever
its operands and the state: UNPREDICTABLE operands and failed accesses are no-ops. Spec: 30_encoding.md R97, R98;
20_memory.md R67; 40_alu_primitives.md R146. -/
def Obligations.EveryThreadModeInstructionCompletes : Prop :=
  ∀ (i : Instr) (s : State), s.mode = .thread → ∃ t, exec i s = .next t

/-- No instruction leaves Thread mode or touches IPSR, SPSEL or the active records there. An instruction executed in
Thread mode leaves the mode, IPSR, SPSEL, the active flags, the active FIFO and the depth as they were: only the
exception check of phase 6 takes an exception. Spec: 10_state.md R34, R39; 60_exceptions.md R339, R346. -/
def Obligations.ThreadModeIsLeftOnlyByTheCheck : Prop :=
  ∀ (i : Instr) (s t : State), s.mode = .thread → exec i s = .next t →
    t.mode = .thread ∧ t.psr.ipsr = s.psr.ipsr ∧ t.spsel = s.spsel ∧ t.nvic.active = s.nvic.active ∧
      t.nvic.activeStack = s.nvic.activeStack ∧ t.nvic.nested = s.nvic.nested

/-- No instruction writes BASEPRI or the configuration, and only CPS writes PRIMASK and FAULTMASK. Whatever instruction
completes, BASEPRI, the vector table, the priorities, PRIGROUP, the region map, the parameters and the run state are
unchanged; PRIMASK and FAULTMASK are unchanged by every instruction but CPS. Spec: 10_state.md R35, R36, R37;
60_exceptions.md R326, R327. -/
def Obligations.OnlyCpsWritesTheMasks : Prop :=
  ∀ (i : Instr) (s t : State), exec i s = .next t →
    t.basepri = s.basepri ∧ t.nvic.vt = s.nvic.vt ∧ t.nvic.pri = s.nvic.pri ∧ t.nvic.prigroup = s.nvic.prigroup ∧
      t.regions = s.regions ∧ t.params = s.params ∧ t.halting = s.halting ∧ t.halted = s.halted ∧
      ((∀ im sb i' f, i ≠ .cps im sb i' f) → t.primask = s.primask ∧ t.faultmask = s.faultmask)

/-- A step runs the instruction its bytes decode to. Where the core runs (not halting, not Halted, T = 1) and the four
bytes at the PC are readable memory that decodes to i, the step is i with the PC advanced past it and it_new
cleared, then the IT advance and the exception check. That the region map of the state decides what the port admits
and that ROM answers its stored bytes as RAM does is the model's choice (log 3, log 22). Spec: 30_encoding.md R91,
R94; 10_state.md R28. -/
def Obligations.StepRunsDecodedInstruction : Prop :=
  ∀ (s : State) (i : Instr) (rest : List Byte), s.idle = false → s.psr.t = true →
    s.readable s.pc .half = true → s.isDevice s.pc .half = false →
    s.readable (s.pc + 2) .half = true → s.isDevice (s.pc + 2) .half = false →
    decode [s.mem.readByte s.pc.toNat, s.mem.readByte (s.pc.toNat + 1), s.mem.readByte (s.pc + 2).toNat,
      s.mem.readByte ((s.pc + 2).toNat + 1)] = .ok (i, rest) →
    step s =
      match exec i { s with pc := s.pc + BitVec.ofNat 32 (4 - rest.length), itNew := false } with
      | .next t => t.itAdvance.exceptionCheck
      | .fault f => .fault f
      | .refused r => .refused r

/-- An idle core takes no step, a cycle with T = 0 faults, a refused fetch halts. While halting is 1 or Halted is true a
step changes nothing (R45). A cycle that starts with T = 0 has no meaning in the spec, which asks a model to treat
it as a fault: this model's is thumbStateClear (log 8). Where either halfword fetch is refused the core becomes
Halted and nothing else changes but the number of the next free draw (log 4). That the region map of the state
decides what the port admits is the model's choice (log 3). Spec: 10_state.md R33, R45; 30_encoding.md R91;
70_reset_and_hazards.md R383; 92_eei_decisions.md D8. -/
def Obligations.CyclesWithoutAnInstruction : Prop :=
  ∀ s : State,
    (s.halting = true ∨ s.halted = true → step s = .next s) ∧
      (s.halting = false → s.halted = false →
        (s.psr.t = false → step s = .fault .thumbStateClear) ∧
          (s.psr.t = true → (s.readable s.pc .half = false ∨ s.readable (s.pc + 2) .half = false) →
            ∃ ix, step s = .next { s with halted := true, freeIx := ix }))

/-- Words written out from the encodings decode to their instructions. One word of each family, written bit by bit from
the formats, decodes to the instruction it stands for. Spec: 30_encoding.md R101, R102. -/
def Obligations.WrittenWordsDecode : Prop :=
  decodeTableWord 16 0b0000000100010001 = some (.lslImm 4 2 1) ∧
    decodeTableWord 16 0b0100000101001000 = some (.adcReg 1 0) ∧
    decodeTableWord 16 0b0100010010001101 = some (.addHi 1 13) ∧
    decodeTableWord 16 0b0101011010001000 = some (.ldrsbReg 2 1 0) ∧
    decodeTableWord 16 0b1011010100010000 = some (.push true 0x10) ∧
    decodeTableWord 16 0b1101000111111101 = some (.bCond 1 0xFD) ∧
    decodeTableWord 32 0b11101000101000000000000000000110 = some (.stmW true 0 false false false 6) ∧
    decodeTableWord 32 0b11101000010000000001001000000000 = some (.strex 0 1 2 0) ∧
    decodeTableWord 32 0b11101001110111110000000100000010 = some (.ldrdLit true true false 0 1 2)

/-- RESET leaves every state the spec gives a value at that value. After RESET over any parameters, region map and
memory: VT holds the words at 4n (0 where the port refuses), SP_main, the PC and T come from words 0 and 1, LR is
0xFFFFFFFF, flags, masks, IPSR, ITSTATE, SPSEL and PRIGROUP are 0, Thread mode, nothing pending, active or reserved,
fixed priorities -3, -2, -1 and the others unset; memory is unchanged. That the region map of the state decides what
the port admits and that ROM answers its stored bytes as RAM does is the model's choice (log 3, log 22). Spec:
10_state.md R48; 70_reset_and_hazards.md R380. -/
def Obligations.ResetGivesSpecifiedValues : Prop :=
  ∀ (p : Params) (rs : List Region) (m : Memory) (ix : Nat), Config.minNvec ≤ p.nvec →
    let s := State.resetWith p rs m ix
    s.nvic.vt.length = p.nvec ∧
      (∀ (n : Nat) (w : Word), s.nvic.vt[n]? = some w →
        (findRegion rs (4 * n) 4 = none → w = 0) ∧
          ∀ r, findRegion rs (4 * n) 4 = some r →
            (r.readable = false → w = 0) ∧
              (r.readable = true → r.kind.isDevice = false → w = m.readLE (4 * n) 4)) ∧
      (∃ w0 w1, s.nvic.vt[0]? = some w0 ∧ s.nvic.vt[1]? = some w1 ∧ s.spMain = w0 &&& 0xFFFFFFFC#32 ∧
        s.pc = w1 &&& 0xFFFFFFFE#32 ∧ s.psr = ⟨false, false, false, false, false, w1.getLsbD 0, 0#8, 0#9⟩) ∧
      s.lr = 0xFFFFFFFF#32 ∧ s.primask = false ∧ s.faultmask = false ∧ s.basepri = 0#8 ∧ s.spsel = false ∧
      s.mode = .thread ∧ s.itNew = false ∧ s.nvic.activeStack = [] ∧ s.nvic.nested = 0 ∧ s.nvic.pending = [] ∧
      s.nvic.prigroup = 0 ∧ s.excl = [] ∧ s.halted = false ∧ s.mem = m ∧
      (∀ n < p.nvec, s.nvic.active[n]? = some false) ∧
      s.nvic.raw 1 = -3 ∧ s.nvic.raw 2 = -2 ∧ s.nvic.raw 3 = -1 ∧
      (∀ n, 4 ≤ n → n < p.nvec → s.nvic.pri[n]? = some none) ∧ s.executionPriority = 256

/-- The invariant holds right after reset. State.reset satisfies Inv. Spec: 10_state.md R46; 70_reset_and_hazards.md
R387. -/
def Obligations.ResetStateSatisfiesInvariant : Prop :=
  Inv State.reset

/-- Every environment action keeps the invariant, but a debug write of an odd PC. NVIC.throw, NVIC.config, SYSREG,
ALUOP, HALT, register and memory writes and RESET keep Inv; set_raw_pc keeps it where its value is even (R26 puts
that call outside the invariant). Which debug writes there are (R0 to R12, the live SP, LR and the raw PC; not the
status word) is the model's choice (log 18). Spec: 10_state.md R26, R46; 70_reset_and_hazards.md R386. -/
def Obligations.EnvironmentActionsKeepInvariant : Prop :=
  ∀ (e : EnvAction) (s : State), Inv s → (∀ a, e = .setRawPc a → a.getLsbD 0 = false) → Inv (applyEnv e s)

/-- LSL, LSR and ASR by an immediate: result, flags and frame. LSL by n multiplies by 2^n modulo 2^32 with carry bit
32-n; LSR divides by 2^n and ASR takes the floor of the signed quotient, both with carry bit n-1 and n = 32 for imm5
= 0. N, Z, C outside an IT block; V and everything else unchanged. Spec: R170; R172; R173. -/
def Obligations.ImmediateShiftResults : Prop :=
  ∀ (s : State) (imm5 : BitVec 5) (rm rd : LowReg),
    ((imm5 ≠ 0#5 → DecodesAs (0b00000#5 ++ imm5 ++ rm ++ rd) (.lslImm imm5 rm rd)) ∧
      DecodesAs (0b00001#5 ++ imm5 ++ rm ++ rd) (.lsrImm imm5 rm rd) ∧
      DecodesAs (0b00010#5 ++ imm5 ++ rm ++ rd) (.asrImm imm5 rm rd)) ∧
    (s.psr.conditionPassed = true →
    let x := s.x32 (lo rm)
    let n := if imm5 = 0#5 then 32 else imm5.toNat
    (imm5 ≠ 0#5 →
      Completes (.lslImm imm5 rm rd) s fun t =>
        (t.x32 (lo rd)).toNat = x.toNat * 2 ^ n % 2 ^ 32 ∧
          t.psr = s.psr.afterNZC (t.x32 (lo rd)) (x.getLsbD (32 - n)) ∧ Writes s t [lo rd]) ∧
      (Completes (.lsrImm imm5 rm rd) s fun t =>
        (t.x32 (lo rd)).toNat = x.toNat / 2 ^ n ∧
          t.psr = s.psr.afterNZC (t.x32 (lo rd)) (x.getLsbD (n - 1)) ∧ Writes s t [lo rd]) ∧
      (Completes (.asrImm imm5 rm rd) s fun t =>
        (t.x32 (lo rd)).toInt = x.toInt.fdiv (2 ^ n) ∧
          t.psr = s.psr.afterNZC (t.x32 (lo rd)) (x.getLsbD (n - 1)) ∧ Writes s t [lo rd]))

/-- LSL, LSR, ASR and ROR by a register: every amount 0 to 255. The amount is the low byte of Rm. Amount 0 leaves value
and carry; otherwise the result is the multiplication, the division, the signed floor division or the rotation, and
the carry the last bit out (0, the sign or bit 31 beyond 32). N, Z, C outside an IT block; V and everything else
unchanged. Spec: R192; R193; R194; R197. -/
def Obligations.RegisterShiftResults : Prop :=
  ∀ (s : State) (rm rdn : LowReg),
    (DecodesAs (0b0100000010#10 ++ rm ++ rdn) (.lslReg rm rdn) ∧
      DecodesAs (0b0100000011#10 ++ rm ++ rdn) (.lsrReg rm rdn) ∧
      DecodesAs (0b0100000100#10 ++ rm ++ rdn) (.asrReg rm rdn) ∧
      DecodesAs (0b0100000111#10 ++ rm ++ rdn) (.rorReg rm rdn)) ∧
    (s.psr.conditionPassed = true →
    let x := s.x32 (lo rdn)
    let n := (s.x32 (lo rm)).toNat % 256
    (Completes (.lslReg rm rdn) s fun t =>
      (t.x32 (lo rdn)).toNat = x.toNat * 2 ^ n % 2 ^ 32 ∧
        t.psr = s.psr.afterNZC (t.x32 (lo rdn))
          (if n = 0 then s.psr.c else if n ≤ 32 then x.getLsbD (32 - n) else false) ∧ Writes s t [lo rdn]) ∧
      (Completes (.lsrReg rm rdn) s fun t =>
        (t.x32 (lo rdn)).toNat = x.toNat / 2 ^ n ∧
          t.psr = s.psr.afterNZC (t.x32 (lo rdn))
            (if n = 0 then s.psr.c else if n ≤ 32 then x.getLsbD (n - 1) else false) ∧ Writes s t [lo rdn]) ∧
      (Completes (.asrReg rm rdn) s fun t =>
        (t.x32 (lo rdn)).toInt = x.toInt.fdiv (2 ^ n) ∧
          t.psr = s.psr.afterNZC (t.x32 (lo rdn))
            (if n = 0 then s.psr.c else if n ≤ 32 then x.getLsbD (n - 1) else x.getLsbD 31) ∧ Writes s t [lo rdn]) ∧
      (Completes (.rorReg rm rdn) s fun t =>
        (∀ k < 32, (t.x32 (lo rdn)).getLsbD k = x.getLsbD ((k + n) % 32)) ∧
          t.psr = s.psr.afterNZC (t.x32 (lo rdn)) (if n = 0 then s.psr.c else (t.x32 (lo rdn)).getLsbD 31) ∧
          Writes s t [lo rdn]))

/-- ADD and SUB of registers and immediates: result, NZCV and frame. The destination gets the sum or difference modulo
2^32; outside an IT block N, Z come from it, C is the unsigned carry (no borrow), V the signed overflow; nothing
else changes. Spec: R174; R175; R176; R177; R180; R181. -/
def Obligations.AddSubtractResults : Prop :=
  ∀ (s : State) (rm rn rd : LowReg) (imm3 : BitVec 3) (imm8 : BitVec 8),
    (DecodesAs (0b0001100#7 ++ rm ++ rn ++ rd) (.addReg rm rn rd) ∧
      DecodesAs (0b0001101#7 ++ rm ++ rn ++ rd) (.subReg rm rn rd) ∧
      DecodesAs (0b0001110#7 ++ imm3 ++ rn ++ rd) (.addImm3 imm3 rn rd) ∧
      DecodesAs (0b0001111#7 ++ imm3 ++ rn ++ rd) (.subImm3 imm3 rn rd) ∧
      DecodesAs (0b00110#5 ++ rd ++ imm8) (.addImm8 rd imm8) ∧
      DecodesAs (0b00111#5 ++ rd ++ imm8) (.subImm8 rd imm8)) ∧
    (s.psr.conditionPassed = true →
    AddsInto (.addReg rm rn rd) s (lo rd) (s.x32 (lo rn)) (s.x32 (lo rm)) 0 ∧
      SubtractsInto (.subReg rm rn rd) s (lo rd) (s.x32 (lo rn)) (s.x32 (lo rm)) 0 ∧
      AddsInto (.addImm3 imm3 rn rd) s (lo rd) (s.x32 (lo rn)) (imm3.setWidth 32) 0 ∧
      SubtractsInto (.subImm3 imm3 rn rd) s (lo rd) (s.x32 (lo rn)) (imm3.setWidth 32) 0 ∧
      AddsInto (.addImm8 rd imm8) s (lo rd) (s.x32 (lo rd)) (imm8.setWidth 32) 0 ∧
      SubtractsInto (.subImm8 rd imm8) s (lo rd) (s.x32 (lo rd)) (imm8.setWidth 32) 0)

/-- ADC, SBC and RSB: result, NZCV and frame. ADC adds the old carry, SBC subtracts its complement as a borrow, RSB
negates; flags and frame as for ADD and SUB. Spec: R195; R196; R199. -/
def Obligations.CarryArithmeticResults : Prop :=
  ∀ (s : State) (rm rdn rn rd : LowReg),
    (DecodesAs (0b0100000101#10 ++ rm ++ rdn) (.adcReg rm rdn) ∧
      DecodesAs (0b0100000110#10 ++ rm ++ rdn) (.sbcReg rm rdn) ∧
      DecodesAs (0b0100001001#10 ++ rn ++ rd) (.rsbImm0 rn rd)) ∧
    (s.psr.conditionPassed = true →
    AddsInto (.adcReg rm rdn) s (lo rdn) (s.x32 (lo rdn)) (s.x32 (lo rm)) (if s.psr.c then 1 else 0) ∧
      SubtractsInto (.sbcReg rm rdn) s (lo rdn) (s.x32 (lo rdn)) (s.x32 (lo rm)) (if s.psr.c then 0 else 1) ∧
      SubtractsInto (.rsbImm0 rn rd) s (lo rd) 0#32 (s.x32 (lo rn)) 0)

/-- CMP, CMN and TST write flags always and nothing else. CMP writes N, Z, C, V of the difference and CMN of the sum,
TST N and Z of the conjunction, inside or outside an IT block; no register and nothing else changes. Spec: R179;
R198; R200; R201. -/
def Obligations.CompareAndTestResults : Prop :=
  ∀ (s : State) (rm rn : LowReg) (imm8 : BitVec 8),
    (DecodesAs (0b00101#5 ++ rn ++ imm8) (.cmpImm rn imm8) ∧
      DecodesAs (0b0100001010#10 ++ rm ++ rn) (.cmpReg rm rn) ∧
      DecodesAs (0b0100001011#10 ++ rm ++ rn) (.cmnReg rm rn) ∧
      DecodesAs (0b0100001000#10 ++ rm ++ rn) (.tstReg rm rn)) ∧
    (s.psr.conditionPassed = true →
    Compares (.cmpImm rn imm8) s (s.x32 (lo rn)) (imm8.setWidth 32) ∧
      Compares (.cmpReg rm rn) s (s.x32 (lo rn)) (s.x32 (lo rm)) ∧
      (Completes (.cmnReg rm rn) s fun t =>
        t.psr = s.psr.withNZCV (s.x32 (lo rn) + s.x32 (lo rm)) (sumCarry (s.x32 (lo rn)) (s.x32 (lo rm)) 0)
          (sumOverflow (s.x32 (lo rn)) (s.x32 (lo rm)) 0) ∧ Writes s t []) ∧
      (Completes (.tstReg rm rn) s fun t =>
        t.psr = { s.psr with n := (s.x32 (lo rn) &&& s.x32 (lo rm)).getLsbD 31,
                             z := decide (s.x32 (lo rn) &&& s.x32 (lo rm) = 0#32) } ∧ Writes s t []))

/-- AND, EOR, ORR, BIC, MVN, MUL, MOV and MOVS: result, N and Z, frame. The destination gets the bitwise result, the low
32 bits of the product, the immediate or the register; N and Z of it outside an IT block (MOVS is not allowed inside
one); C, V and everything else unchanged. Spec: R171; R178; R190; R191; R202; R203; R204; R205. -/
def Obligations.LogicMoveMultiplyResults : Prop :=
  ∀ (s : State) (rm rdn : LowReg) (imm8 : BitVec 8),
    (DecodesAs (0b0100000000#10 ++ rm ++ rdn) (.andReg rm rdn) ∧
      DecodesAs (0b0100000001#10 ++ rm ++ rdn) (.eorReg rm rdn) ∧
      DecodesAs (0b0100001100#10 ++ rm ++ rdn) (.orrReg rm rdn) ∧
      DecodesAs (0b0100001110#10 ++ rm ++ rdn) (.bicReg rm rdn) ∧
      DecodesAs (0b0100001111#10 ++ rm ++ rdn) (.mvnReg rm rdn) ∧
      DecodesAs (0b0100001101#10 ++ rm ++ rdn) (.mulReg rm rdn) ∧
      DecodesAs (0b00100#5 ++ rdn ++ imm8) (.movImm rdn imm8) ∧
      DecodesAs (0b0000000000#10 ++ rm ++ rdn) (.movsReg rm rdn)) ∧
    (s.psr.conditionPassed = true →
    let x := s.x32 (lo rdn)
    let y := s.x32 (lo rm)
    LogicInto (.andReg rm rdn) s (lo rdn) (x &&& y) ∧ LogicInto (.eorReg rm rdn) s (lo rdn) (x ^^^ y) ∧
      LogicInto (.orrReg rm rdn) s (lo rdn) (x ||| y) ∧ LogicInto (.bicReg rm rdn) s (lo rdn) (x &&& ~~~y) ∧
      LogicInto (.mvnReg rm rdn) s (lo rdn) (~~~y) ∧ LogicInto (.mulReg rm rdn) s (lo rdn) (y * x) ∧
      LogicInto (.movImm rdn imm8) s (lo rdn) (imm8.setWidth 32) ∧
      (if s.psr.inITBlock then
        OnlyLogs (.movsReg rm rdn) s (.unpredictable (Instr.movsReg rm rdn).opcode)
      else LogicInto (.movsReg rm rdn) s (lo rdn) y))

/-- ADD, MOV and CMP of high registers: an ordinary register, SP or the PC as destination. The destination gets the sum
or the source, no flag changes; a result written to SP loses bits 1:0; the PC as destination is a branch that clears
bit 0 and leaves T. Both operands PC (ADD), or the PC as destination inside an IT block but not last, is a logged
no-op. CMP compares the two registers, SP among them, and writes N, Z, C, V always; with the PC as either operand it
is a logged no-op. Spec: R210; R211; R212. -/
def Obligations.HighRegisterResults : Prop :=
  ∀ (s : State) (rm rd : RegNum),
    (DecodesAs (0b01000100#8 ++ rd.extractLsb' 3 1 ++ rm ++ rd.extractLsb' 0 3) (.addHi rm rd) ∧
      (8 ≤ rd.toNat ∨ 8 ≤ rm.toNat → DecodesAs (0b01000101#8 ++ rd.extractLsb' 3 1 ++ rm ++ rd.extractLsb' 0 3) (.cmpHi rm rd)) ∧
      DecodesAs (0b01000110#8 ++ rd.extractLsb' 3 1 ++ rm ++ rd.extractLsb' 0 3) (.movHi rm rd)) ∧
    (s.psr.conditionPassed = true →
    let x := s.x16 rd
    let y := s.x16 rm
    (if (rd = 15#4 ∧ rm = 15#4) ∨ (rd = 15#4 ∧ s.psr.inITBlock = true ∧ s.psr.lastInITBlock = false) then
      OnlyLogs (.addHi rm rd) s (.unpredictable (Instr.addHi rm rd).opcode)
    else if rd = 15#4 then Completes (.addHi rm rd) s fun t => OnlyBranches s t ((x + y) &&& 0xFFFFFFFE#32)
    else MovesInto (.addHi rm rd) s rd (if rd = 13#4 then (x + y) &&& 0xFFFFFFFC#32 else x + y)) ∧
      (if rd = 15#4 ∧ s.psr.inITBlock = true ∧ s.psr.lastInITBlock = false then
        OnlyLogs (.movHi rm rd) s (.unpredictable (Instr.movHi rm rd).opcode)
      else if rd = 15#4 then Completes (.movHi rm rd) s fun t => OnlyBranches s t (y &&& 0xFFFFFFFE#32)
      else MovesInto (.movHi rm rd) s rd (if rd = 13#4 then y &&& 0xFFFFFFFC#32 else y)) ∧
      (if rd = 15#4 ∨ rm = 15#4 then OnlyLogs (.cmpHi rm rd) s (.unpredictable (Instr.cmpHi rm rd).opcode)
      else Compares (.cmpHi rm rd) s x y))

/-- BX and BLX outside an exception return: PC, T and the link value. The PC gets the target with bit 0 cleared and T
gets bit 0; BLX also puts the address of the following instruction with bit 0 set into LR, reading the target first.
UNPREDICTABLE operands are logged no-ops. Spec: 40_alu_primitives.md R146; 43_special_data_bx.md R213, R214. -/
def Obligations.BranchExchangeResults : Prop :=
  ∀ (s : State) (rm : RegNum) (sb : BitVec 3), s.psr.conditionPassed = true →
    ¬(s.mode = .handler ∧ (s.x16 rm).getLsbD 0 = true ∧ (s.x16 rm).extractLsb' 28 4 = 0xF#4) →
    if rm = 15#4 ∨ (s.psr.inITBlock = true ∧ s.psr.lastInITBlock = false) then
      OnlyLogs (.bx rm sb) s (.unpredictable (Instr.bx rm sb).opcode) ∧
        OnlyLogs (.blxReg rm sb) s (.unpredictable (Instr.blxReg rm sb).opcode)
    else
      (Completes (.bx rm sb) s fun t =>
        t.pc = s.x16 rm &&& 0xFFFFFFFE#32 ∧ t.psr = { s.psr with t := (s.x16 rm).getLsbD 0 } ∧ Frame s t [] ∧
          SameMemory s t) ∧
        Completes (.blxReg rm sb) s fun t =>
          t.pc = s.x16 rm &&& 0xFFFFFFFE#32 ∧ t.psr = { s.psr with t := (s.x16 rm).getLsbD 0 } ∧
            t.lr = (s.pc &&& 0xFFFFFFFE#32) ||| 1#32 ∧ Frame s t [14#4] ∧ SameMemory s t

/-- Every 16-bit single load: address, width, extension, frame; a refused load is a logged no-op. LDR, LDRH, LDRB (zero-
extended), LDRSH, LDRSB (sign-extended), literal, register, immediate and SP-relative: the destination gets the
value at the computed address; no flag, base register or memory byte changes; a refused access changes nothing but
the LOG. That the region map of the state decides what the port admits and that a device answers a free value is the
model's choice (log 3, log 4), and so is that ROM behaves as RAM (log 22). Spec: 44_load_store_single.md R220, R224
to R228, R230, R232, R234, R236; 20_memory.md R61, R64, R67. -/
def Obligations.SingleLoadResults : Prop :=
  ∀ (s : State) (rm rn rt : LowReg) (imm5 : BitVec 5) (imm8 : BitVec 8),
    (DecodesAs (0b01001#5 ++ rt ++ imm8) (.ldrLit rt imm8) ∧
      DecodesAs (0b0101100#7 ++ rm ++ rn ++ rt) (.ldrReg rm rn rt) ∧
      DecodesAs (0b0101101#7 ++ rm ++ rn ++ rt) (.ldrhReg rm rn rt) ∧
      DecodesAs (0b0101110#7 ++ rm ++ rn ++ rt) (.ldrbReg rm rn rt) ∧
      DecodesAs (0b0101111#7 ++ rm ++ rn ++ rt) (.ldrshReg rm rn rt) ∧
      DecodesAs (0b0101011#7 ++ rm ++ rn ++ rt) (.ldrsbReg rm rn rt) ∧
      DecodesAs (0b01101#5 ++ imm5 ++ rn ++ rt) (.ldrImm imm5 rn rt) ∧
      DecodesAs (0b10001#5 ++ imm5 ++ rn ++ rt) (.ldrhImm imm5 rn rt) ∧
      DecodesAs (0b01111#5 ++ imm5 ++ rn ++ rt) (.ldrbImm imm5 rn rt) ∧
      DecodesAs (0b10011#5 ++ rt ++ imm8) (.ldrSp rt imm8)) ∧
    (s.psr.conditionPassed = true →
    let reg := s.x32 (lo rn) + s.x32 (lo rm)
    LoadsInto (.ldrLit rt imm8) s (lo rt) (((s.pc + 2) &&& 0xFFFFFFFC#32) + (imm8 ++ 0#2).setWidth 32) .word id ∧
      LoadsInto (.ldrReg rm rn rt) s (lo rt) reg .word id ∧
      LoadsInto (.ldrhReg rm rn rt) s (lo rt) reg .half id ∧
      LoadsInto (.ldrbReg rm rn rt) s (lo rt) reg .byte id ∧
      LoadsInto (.ldrshReg rm rn rt) s (lo rt) reg .half (fun v => (v.setWidth 16).signExtend 32) ∧
      LoadsInto (.ldrsbReg rm rn rt) s (lo rt) reg .byte (fun v => (v.setWidth 8).signExtend 32) ∧
      LoadsInto (.ldrImm imm5 rn rt) s (lo rt) (s.x32 (lo rn) + (imm5 ++ 0#2).setWidth 32) .word id ∧
      LoadsInto (.ldrhImm imm5 rn rt) s (lo rt) (s.x32 (lo rn) + (imm5 ++ 0#1).setWidth 32) .half id ∧
      LoadsInto (.ldrbImm imm5 rn rt) s (lo rt) (s.x32 (lo rn) + imm5.setWidth 32) .byte id ∧
      LoadsInto (.ldrSp rt imm8) s (lo rt) (s.sp + (imm8 ++ 0#2).setWidth 32) .word id)

/-- Every 16-bit single store: address, bytes, frame; a refused store is a logged no-op. STR, STRH, STRB with register,
immediate and SP-relative address: the low bytes of Rt go to the computed address, least significant first; every
other byte, every register, flag and reservation is unchanged; a refused access changes nothing but the LOG. That
the region map of the state decides what the port admits and that a device's store changes no byte is the model's
choice (log 3, log 4), and so is that ROM behaves as RAM (log 22). Spec: 44_load_store_single.md R221, R222, R223,
R229, R231, R233, R235; 20_memory.md R61, R64, R67. -/
def Obligations.SingleStoreResults : Prop :=
  ∀ (s : State) (rm rn rt : LowReg) (imm5 : BitVec 5) (imm8 : BitVec 8),
    (DecodesAs (0b0101000#7 ++ rm ++ rn ++ rt) (.strReg rm rn rt) ∧
      DecodesAs (0b0101001#7 ++ rm ++ rn ++ rt) (.strhReg rm rn rt) ∧
      DecodesAs (0b0101010#7 ++ rm ++ rn ++ rt) (.strbReg rm rn rt) ∧
      DecodesAs (0b01100#5 ++ imm5 ++ rn ++ rt) (.strImm imm5 rn rt) ∧
      DecodesAs (0b10000#5 ++ imm5 ++ rn ++ rt) (.strhImm imm5 rn rt) ∧
      DecodesAs (0b01110#5 ++ imm5 ++ rn ++ rt) (.strbImm imm5 rn rt) ∧
      DecodesAs (0b10010#5 ++ rt ++ imm8) (.strSp rt imm8)) ∧
    (s.psr.conditionPassed = true →
    let reg := s.x32 (lo rn) + s.x32 (lo rm)
    StoresAt (.strReg rm rn rt) s reg .word (s.x32 (lo rt)) ∧
      StoresAt (.strhReg rm rn rt) s reg .half (s.x32 (lo rt)) ∧
      StoresAt (.strbReg rm rn rt) s reg .byte (s.x32 (lo rt)) ∧
      StoresAt (.strImm imm5 rn rt) s (s.x32 (lo rn) + (imm5 ++ 0#2).setWidth 32) .word (s.x32 (lo rt)) ∧
      StoresAt (.strhImm imm5 rn rt) s (s.x32 (lo rn) + (imm5 ++ 0#1).setWidth 32) .half (s.x32 (lo rt)) ∧
      StoresAt (.strbImm imm5 rn rt) s (s.x32 (lo rn) + imm5.setWidth 32) .byte (s.x32 (lo rt)) ∧
      StoresAt (.strSp rt imm8) s (s.sp + (imm8 ++ 0#2).setWidth 32) .word (s.x32 (lo rt)))

/-- ADR, ADD SP and SUB SP: results and frame. ADR adds the word offset to the aligned PC read value, ADD (SP plus imm8)
to SP; ADD and SUB SP write the live stack pointer, word aligned; no flag and nothing else changes. Spec: R250;
R251; R252; R253. -/
def Obligations.AddressAndStackAdjustResults : Prop :=
  ∀ (s : State) (rd : LowReg) (imm8 : BitVec 8) (imm7 : BitVec 7),
    (DecodesAs (0b10100#5 ++ rd ++ imm8) (.adr rd imm8) ∧
      DecodesAs (0b10101#5 ++ rd ++ imm8) (.addSpImm8 rd imm8) ∧
      DecodesAs (0b101100000#9 ++ imm7) (.addSpImm7 imm7) ∧
      DecodesAs (0b101100001#9 ++ imm7) (.subSpImm7 imm7)) ∧
    (s.psr.conditionPassed = true →
    MovesInto (.adr rd imm8) s (lo rd) (((s.pc + 2) &&& 0xFFFFFFFC#32) + (imm8 ++ 0#2).setWidth 32) ∧
      MovesInto (.addSpImm8 rd imm8) s (lo rd) (s.sp + (imm8 ++ 0#2).setWidth 32) ∧
      MovesInto (.addSpImm7 imm7) s 13#4 ((s.sp + (imm7 ++ 0#2).setWidth 32) &&& 0xFFFFFFFC#32) ∧
      MovesInto (.subSpImm7 imm7) s 13#4 ((s.sp - (imm7 ++ 0#2).setWidth 32) &&& 0xFFFFFFFC#32))

/-- CBZ and CBNZ branch on a zero or non-zero register, outside IT blocks. The branch goes forward by the offset from
the PC read value when the register is zero (CBZ) or not (CBNZ); otherwise nothing changes; inside an IT block both
are logged no-ops. Spec: R254; R255. -/
def Obligations.CompareBranchResults : Prop :=
  ∀ (s : State) (i : Bool) (imm5 : BitVec 5) (rn : LowReg),
    (DecodesAs (0b101100#6 ++ bit i ++ 1#1 ++ imm5 ++ rn) (.cbz i imm5 rn) ∧
      DecodesAs (0b101110#6 ++ bit i ++ 1#1 ++ imm5 ++ rn) (.cbnz i imm5 rn)) ∧
    (let target := (s.pc + 2 + (BitVec.ofBool i ++ imm5 ++ 0#1).setWidth 32) &&& 0xFFFFFFFE#32
    if s.psr.inITBlock then
      OnlyLogs (.cbz i imm5 rn) s (.unpredictable (Instr.cbz i imm5 rn).opcode) ∧
        OnlyLogs (.cbnz i imm5 rn) s (.unpredictable (Instr.cbnz i imm5 rn).opcode)
    else if s.x32 (lo rn) = 0#32 then
      (Completes (.cbz i imm5 rn) s fun t => OnlyBranches s t target) ∧ exec (.cbnz i imm5 rn) s = .next s
    else (Completes (.cbnz i imm5 rn) s fun t => OnlyBranches s t target) ∧ exec (.cbz i imm5 rn) s = .next s)

/-- SXTH, SXTB, UXTH, UXTB, REV, REV16 and REVSH: results and frame. The extends take the low half or byte with sign or
zero; the reverses swap the bytes of the word, of each half, or of the low half sign-extended; no flag and nothing
else changes. Spec: R256; R257; R258; R259; R262; R263; R264. -/
def Obligations.ExtendAndReverseResults : Prop :=
  ∀ (s : State) (rm rd : LowReg),
    (DecodesAs (0b1011001000#10 ++ rm ++ rd) (.sxth rm rd) ∧
      DecodesAs (0b1011001001#10 ++ rm ++ rd) (.sxtb rm rd) ∧
      DecodesAs (0b1011001010#10 ++ rm ++ rd) (.uxth rm rd) ∧
      DecodesAs (0b1011001011#10 ++ rm ++ rd) (.uxtb rm rd) ∧
      DecodesAs (0b1011101000#10 ++ rm ++ rd) (.rev rm rd) ∧
      DecodesAs (0b1011101001#10 ++ rm ++ rd) (.rev16 rm rd) ∧
      DecodesAs (0b1011101011#10 ++ rm ++ rd) (.revsh rm rd)) ∧
    (s.psr.conditionPassed = true →
    let x := s.x32 (lo rm)
    MovesInto (.sxth rm rd) s (lo rd) ((x.setWidth 16).signExtend 32) ∧
      MovesInto (.sxtb rm rd) s (lo rd) ((x.setWidth 8).signExtend 32) ∧
      MovesInto (.uxth rm rd) s (lo rd) (x &&& 0xFFFF#32) ∧ MovesInto (.uxtb rm rd) s (lo rd) (x &&& 0xFF#32) ∧
      MovesInto (.rev rm rd) s (lo rd)
        ((x <<< 24) ||| ((x &&& 0xFF00#32) <<< 8) ||| ((x >>> 8) &&& 0xFF00#32) ||| (x >>> 24)) ∧
      MovesInto (.rev16 rm rd) s (lo rd) (((x &&& 0x00FF00FF#32) <<< 8) ||| ((x >>> 8) &&& 0x00FF00FF#32)) ∧
      MovesInto (.revsh rm rd) s (lo rd) ((((x &&& 0xFF#32) <<< 8) ||| ((x >>> 8) &&& 0xFF#32)).setWidth 16 |>.signExtend 32))

/-- STM, PUSH, PUSH.W, STM.W, STMDB and STRD: the words, the write-back and the frame. Every form of StoreForm (its
register list, first address and write-back are the rules'), its words aligned and writable, completes: the
registers, at their values before the instruction, go to ascending words; the base is written back where the form
asks; no other byte, register, flag or record changes. That a base register in the list is stored at its old value
is the spec's decision D42. That the region map of the state decides what the port admits, that a device's store
changes no byte and that ROM that admits a store takes it as RAM does is the model's choice (log 3, log 4, log 22).
Spec: 45_misc16.md R260; 46_multiple16_branch_svc.md R280; 47_load_store_multiple32.md R290, R293, R294;
48_dual_exclusive_tablebranch32.md R302; 92_eei_decisions.md D42. -/
def Obligations.StoreMultipleResults : Prop :=
  ∀ (s : State) (i : Instr) (regs : List RegNum) (start : Word) (wb : Option (RegNum × Word)),
    StoreForm s i regs start wb → s.psr.conditionPassed = true → start.toNat % 4 = 0 →
    s.wordsWritable start regs.length → StoresMultiple i s regs start wb

/-- LDM, POP, POP.W, LDM.W, LDMDB, LDRD and LDRD (literal) without the PC: registers, write-back, frame. Every form of
LoadForm whose list has no PC, its words aligned and readable, completes: the registers get the ascending words; the
base is written back where the form asks; no flag, byte, other register or record changes. That the region map of
the state decides what the port admits and that ROM answers its stored bytes as RAM does is the model's choice (log
3, log 22); what a device answers is a free value (log 4). Spec: 45_misc16.md R261; 46_multiple16_branch_svc.md
R281; 47_load_store_multiple32.md R291, R292, R295; 48_dual_exclusive_tablebranch32.md R303, R304. -/
def Obligations.LoadMultipleResults : Prop :=
  ∀ (s : State) (i : Instr) (regs : List RegNum) (start : Word) (wb : Option (RegNum × Word)),
    LoadForm s i regs false start wb → s.psr.conditionPassed = true → start.toNat % 4 = 0 →
    s.wordsReadable start regs.length → LoadsMultiple i s regs start wb

/-- POP, POP.W, LDM.W and LDMDB with the PC listed, outside an exception return. The registers and the write-back as
without the PC; the PC gets the word after the registers' with bit 0 cleared and T its bit 0. That the region map of
the state decides what the port admits, that a device answers a free value and that ROM answers its stored bytes as
RAM does is the model's choice (log 3, log 4, log 22). Spec: 40_alu_primitives.md R146, R148; 45_misc16.md R261;
47_load_store_multiple32.md R291, R292, R295. -/
def Obligations.LoadOfThePcBranches : Prop :=
  ∀ (s s1 : State) (i : Instr) (regs : List RegNum) (start : Word) (wb : Option (RegNum × Word))
    (vs : List (RegNum × Word)), LoadForm s i regs true start wb → s.psr.conditionPassed = true →
    start.toNat % 4 = 0 → s.loadRegs start regs = .ok vs s1 → s1.readable (wordAt start regs.length) .word = true →
    let target := s1.readValue (wordAt start regs.length) .word
    ¬(s.mode = .handler ∧ target.getLsbD 0 = true ∧ target.extractLsb' 28 4 = 0xF#4) →
    LoadsMultiplePc i s vs target wb

/-- A multiple transfer with a refused word: earlier stores stay, no register changes, the LOG names the address. If the
first j words are admitted and the next is refused, a store keeps the j words it wrote (the spec's rule for
AccessFailed), a load keeps nothing, and neither changes a register (the base included), a flag or a record; one
access_failed event names the word's address. That the earlier stores stay and nothing else is committed is the
spec's own decision D6. That the region map of the state decides what the port admits, that ROM takes the words it
admits as RAM does, and that a device's reads draw free values, is the model's choice (log 3, log 22, log 4). Spec:
20_memory.md R67; 46_multiple16_branch_svc.md R280, R281; 92_eei_decisions.md D6. -/
def Obligations.RefusedWordsOfMultipleTransfers : Prop :=
  ∀ (s : State) (i : Instr) (regs : List RegNum) (pc : Bool) (start : Word) (wb : Option (RegNum × Word)) (j : Nat),
    s.psr.conditionPassed = true → start.toNat % 4 = 0 →
    (StoreForm s i regs start wb → j < regs.length → s.wordsWritable start j → s.wordsPlain start j →
      s.writable (wordAt start j) .word = false →
      Completes i s fun t =>
        StoredWords s t start (regs.take j) ∧ t.log = .accessFailed (wordAt start j) :: s.log ∧
          RegFrame s t [] ∧ ControlFrame s t ∧ t.excl = s.excl ∧ t.psr = s.psr ∧ t.pc = s.pc) ∧
      (LoadForm s i regs pc start wb → j < regs.length + pc.toNat → s.wordsReadable start j →
        s.readable (wordAt start j) .word = false →
        ∃ ix, exec i s = .next { s with log := .accessFailed (wordAt start j) :: s.log, freeIx := ix })

/-- A misaligned multiple or dual transfer is a clean, logged no-op. Every form of StoreForm and LoadForm whose first
address is not a multiple of 4 changes nothing; the two LOG events, misaligned then access_failed, are in the order
this model deduces (log 19). Spec: 20_memory.md R65, R67; 46_multiple16_branch_svc.md R280, R281;
48_dual_exclusive_tablebranch32.md R302, R303. -/
def Obligations.MisalignedTransfersAreLoggedNoOps : Prop :=
  ∀ (s : State) (i : Instr) (regs : List RegNum) (pc : Bool) (start : Word) (wb : Option (RegNum × Word)),
    s.psr.conditionPassed = true → start.toNat % 4 ≠ 0 →
    (StoreForm s i regs start wb ∨ LoadForm s i regs pc start wb) →
    exec i s = .next ((s.emit (.misaligned start)).emit (.accessFailed start))

/-- Every multiple or dual transfer has its form or is a logged no-op. A well-formed instruction of these rows either is
a store form or a load form (free of the UNPREDICTABLE operands its rule lists) or has no effect but
LOG.unpredictable of its opcode, whatever the condition. Spec: 30_encoding.md R97, R98, R113; 45_misc16.md R260;
46_multiple16_branch_svc.md R280; 47_load_store_multiple32.md R290, R293, R294; 48_dual_exclusive_tablebranch32.md
R302; 46_multiple16_branch_svc.md R281; 47_load_store_multiple32.md R291, R292, R295;
48_dual_exclusive_tablebranch32.md R303, R304. -/
def Obligations.TransferRestrictionsOnlyLog : Prop :=
  ∀ (s : State) (i : Instr), i.wellFormed = true → transfersWords i = true →
    (∃ regs start wb, StoreForm s i regs start wb) ∨ (∃ regs pc start wb, LoadForm s i regs pc start wb) ∨
      OnlyLogs i s (.unpredictable i.opcode)

/-- B and B<cond>: target, condition, IT restrictions, frame. B goes to the PC read value plus the signed offset;
B<cond> does so where its own condition holds and else changes nothing; T, flags and registers stay; inside an IT
block B<cond>, and B but as last, are logged no-ops. Spec: R282; R285. -/
def Obligations.BranchResults : Prop :=
  ∀ (s : State) (cond : BitVec 4) (imm8 : BitVec 8) (imm11 : BitVec 11),
    ((cond ≠ 14#4 → cond ≠ 15#4 → DecodesAs (0b1101#4 ++ cond ++ imm8) (.bCond cond imm8)) ∧
      DecodesAs (0b11100#5 ++ imm11) (.b imm11)) ∧
    ((if s.psr.inITBlock then OnlyLogs (.bCond cond imm8) s (.unpredictable (Instr.bCond cond imm8).opcode)
    else if s.psr.conditionHolds cond then
      Completes (.bCond cond imm8) s fun t =>
        OnlyBranches s t ((s.pc + 2 + (imm8 ++ 0#1).signExtend 32) &&& 0xFFFFFFFE#32)
    else exec (.bCond cond imm8) s = .next s) ∧
      (if s.psr.inITBlock = true ∧ s.psr.lastInITBlock = false then
        OnlyLogs (.b imm11) s (.unpredictable (Instr.b imm11).opcode)
      else if s.psr.conditionPassed then
        Completes (.b imm11) s fun t =>
          OnlyBranches s t ((s.pc + 2 + (imm11 ++ 0#1).signExtend 32) &&& 0xFFFFFFFE#32)
      else exec (.b imm11) s = .next s))

/-- The sixteen conditions are the table's, and an IT block gives its k-th instruction the condition its mask names.
Each condition code is the listed combination of N, Z, C and V; the current condition is ITSTATE[7:4] inside an IT
block and 1110 outside. After k advances of firstcond:mask, k from 0 to 4, while the mask still has a 1, the
condition is firstcond[3:1] with its low bit replaced by mask[4-k] (firstcond[0] for k = 0); once the mask has
shifted out, after the fourth advance at the latest, ITSTATE is 0. The spec marks the table, the IT predicates and
the form of the advance as taken from general knowledge (R141, R142, R100). Spec: 40_alu_primitives.md R141, R142;
30_encoding.md R100. -/
def Obligations.ConditionsAndItBlocks : Prop :=
  (∀ p : Psr, (p.inITBlock = true ↔ p.itstate.extractLsb' 0 4 ≠ 0#4) ∧
    (p.lastInITBlock = true ↔ p.itstate.extractLsb' 0 4 = 8#4) ∧
    p.currentCond = (if p.inITBlock then p.itstate.extractLsb' 4 4 else 14#4) ∧
    p.conditionPassed = p.conditionHolds p.currentCond) ∧
  (∀ p : Psr,
    (p.conditionHolds 0 = true ↔ p.z = true) ∧ (p.conditionHolds 1 = true ↔ p.z = false) ∧
      (p.conditionHolds 2 = true ↔ p.c = true) ∧ (p.conditionHolds 3 = true ↔ p.c = false) ∧
      (p.conditionHolds 4 = true ↔ p.n = true) ∧ (p.conditionHolds 5 = true ↔ p.n = false) ∧
      (p.conditionHolds 6 = true ↔ p.v = true) ∧ (p.conditionHolds 7 = true ↔ p.v = false) ∧
      (p.conditionHolds 8 = true ↔ p.c = true ∧ p.z = false) ∧
      (p.conditionHolds 9 = true ↔ p.c = false ∨ p.z = true) ∧
      (p.conditionHolds 10 = true ↔ p.n = p.v) ∧ (p.conditionHolds 11 = true ↔ p.n ≠ p.v) ∧
      (p.conditionHolds 12 = true ↔ p.z = false ∧ p.n = p.v) ∧
      (p.conditionHolds 13 = true ↔ p.z = true ∨ p.n ≠ p.v) ∧
      p.conditionHolds 14 = true ∧ p.conditionHolds 15 = true) ∧
  ∀ (firstcond mask : BitVec 4) (k : Fin 5), mask ≠ 0#4 →
    let it := itAdvanceByte^[k.val] (firstcond ++ mask)
    if mask <<< k.val = 0#4 then it = 0#8
    else it.extractLsb' 0 4 ≠ 0#4 ∧
      it.extractLsb' 4 4 =
        firstcond.extractLsb' 1 3 ++ BitVec.ofBool (if k.val = 0 then firstcond.getLsbD 0 else mask.getLsbD (4 - k.val))

/-- SVC makes exception 11 pending and changes nothing else. Where the condition passes, SVC adds one key of vector 11
with its present group priority to the pending store, or, where the store is full, drops the request with a LOG
event; control is not diverted by the instruction itself. Spec: 46_multiple16_branch_svc.md R284; 60_exceptions.md
R330. -/
def Obligations.SupervisorCallPendsSvcall : Prop :=
  ∀ (s : State) (imm8 : BitVec 8), s.psr.conditionPassed = true → 12 ≤ s.params.nvec →
    Completes (.svc imm8) s fun t =>
      SameMemory s t ∧
        if s.nvic.pending.length < s.params.nvec then
          t = s.setNvic { s.nvic with pending := t.nvic.pending } ∧
            ∀ k, t.nvic.pending.count k =
              s.nvic.pending.count k + (if k = ⟨s.nvic.groupPri 11, 11⟩ then 1 else 0)
        else t = s.emit (.dropped 11)

/-- CPS sets and clears PRIMASK and FAULTMASK and nothing else. CPSIE clears the masks named, CPSID sets them, FAULTMASK
only where the execution priority before the instruction is above -1; inside an IT block, or naming no mask, it is a
logged no-op. That the core has CPS at all is the spec's own decision D37. Spec: 45_misc16.md R265;
92_eei_decisions.md D37. -/
def Obligations.CpsWritesTheMasks : Prop :=
  ∀ (s : State) (im : Bool) (sb : BitVec 2) (i f : Bool),
    (DecodesAs (0b10110110011#11 ++ bit im ++ sb ++ bit i ++ bit f) (.cps im sb i f)) ∧
    (s.psr.conditionPassed = true →
    if s.psr.inITBlock = true ∨ (i = false ∧ f = false) then
      OnlyLogs (.cps im sb i f) s (.unpredictable (Instr.cps im sb i f).opcode)
    else
      Completes (.cps im sb i f) s fun t =>
        t.primask = (if i then im else s.primask) ∧
          t.faultmask =
            (if f then (if im then (if s.executionPriority > -1 then true else s.faultmask) else false)
              else s.faultmask) ∧
          t = { s with primask := t.primask, faultmask := t.faultmask } ∧ SameMemory s t)

/-- IT loads ITSTATE, suppresses the advance and changes nothing else. ITSTATE becomes firstcond:mask and it_new is set;
firstcond 1111, firstcond 1110 with more than one mask bit, or an IT inside a block is a logged no-op. Spec: R267. -/
def Obligations.ItStartsTheBlock : Prop :=
  ∀ (s : State) (firstcond mask : BitVec 4),
    ((mask ≠ 0#4 → DecodesAs (0b10111111#8 ++ firstcond ++ mask) (.it firstcond mask))) ∧
    (if firstcond = 15#4 ∨ (firstcond = 14#4 ∧ mask ∉ [1#4, 2#4, 4#4, 8#4]) ∨ s.psr.inITBlock = true then
      OnlyLogs (.it firstcond mask) s (.unpredictable (Instr.it firstcond mask).opcode)
    else
      Completes (.it firstcond mask) s fun t =>
        t = { s with psr := { s.psr with itstate := firstcond ++ mask }, itNew := true } ∧ t.itAdvance = t ∧
          SameMemory s t)

/-- NOP, YIELD, WFE, WFI, SEV, the unallocated hints and BKPT change nothing. Whether or not their condition passes, the
hints and BKPT leave the state as it is (the PC has already advanced) and emit no LOG event. That BKPT has no effect
is the spec's own decision D32. Spec: 45_misc16.md R266, R268 to R273; 92_eei_decisions.md D32. -/
def Obligations.HintsAndBreakpointsChangeNothing : Prop :=
  ∀ (s : State) (opA : BitVec 4) (imm8 : BitVec 8),
    (DecodesAs 0xBF00#16 .nop ∧
      DecodesAs 0xBF10#16 .yield ∧
      DecodesAs 0xBF20#16 .wfe ∧
      DecodesAs 0xBF30#16 .wfi ∧
      DecodesAs 0xBF40#16 .sev ∧
      (opA ∉ [0#4, 1#4, 2#4, 3#4, 4#4] → DecodesAs (0b10111111#8 ++ opA ++ 0#4) (.hintUnallocated opA)) ∧
      DecodesAs (0b10111110#8 ++ imm8) (.bkpt imm8)) ∧
    (exec .nop s = .next s ∧ exec .yield s = .next s ∧ exec .wfe s = .next s ∧ exec .wfi s = .next s ∧
      exec .sev s = .next s ∧ exec (.hintUnallocated opA) s = .next s ∧ exec (.bkpt imm8) s = .next s)

/-- The unpredictable slots and the unmapped opcodes log and do nothing, whatever the condition. The CMP low-low slot,
the UDF slot and every unmapped 16-bit or 32-bit opcode emit LOG.unpredictable of their opcode and change nothing
else. Spec: 43_special_data_bx.md R215; 46_multiple16_branch_svc.md R283; 30_encoding.md R97, R110, R112;
45_misc16.md R274; 48_dual_exclusive_tablebranch32.md R311. -/
def Obligations.UnpredictableSlotsOnlyLog : Prop :=
  ∀ (s : State) (low6 : BitVec 6) (imm8 : BitVec 8) (hw hw1 hw2 : Half),
    (DecodesAs (0b0100010100#10 ++ low6) (.unpredCmpLowLow low6) ∧
      DecodesAs (0b11011110#8 ++ imm8) (.unpredUdf imm8)) ∧
    (OnlyLogs (.unpredCmpLowLow low6) s (.unpredictable (0x4500#32 ||| low6.setWidth 32)) ∧
      OnlyLogs (.unpredUdf imm8) s (.unpredictable (0xDE00#32 ||| imm8.setWidth 32)) ∧
      OnlyLogs (.unpredNop16 hw) s (.unpredictable (hw.setWidth 32)) ∧
      OnlyLogs (.unpredNop32 hw1 hw2) s (.unpredictable (hw1 ++ hw2)))

/-- The IT-related UNPREDICTABLE conditions make logged no-ops. Inside an IT block but not last, what can write the PC
is a logged no-op; anywhere inside one, so are B<cond>, CBZ, CBNZ, IT, CPS and MOVS (register). The spec marks these
conditions as its decision D5, from general knowledge. Spec: 30_encoding.md R113; 92_eei_decisions.md D5. -/
def Obligations.ItRestrictionsOnlyLog : Prop :=
  ∀ s : State, s.psr.inITBlock = true →
    (∀ i : Instr, (∃ c m, i = .bCond c m) ∨ (∃ a b c, i = .cbz a b c) ∨ (∃ a b c, i = .cbnz a b c) ∨
        (∃ a b, i = .it a b) ∨ (∃ a b c d, i = .cps a b c d) ∨ (∃ a b, i = .movsReg a b) →
      OnlyLogs i s (.unpredictable i.opcode)) ∧
      (s.psr.lastInITBlock = false → ∀ i : Instr,
        (∃ a b, i = .bx a b) ∨ (∃ a b, i = .blxReg a b) ∨ (∃ a, i = .b a) ∨ (∃ a, i = .addHi a 15#4) ∨
            (∃ a, i = .movHi a 15#4) ∨ (∃ a, i = .pop true a) ∨ (∃ a b c, i = .popW true a b c) ∨
            (∃ a b c d e, i = .ldmW a b true c d e) ∨ (∃ a b c d e, i = .ldmdb a b true c d e) ∨
            (∃ a b c, i = .tbb a b c) ∨ (∃ a b c, i = .tbh a b c) →
          OnlyLogs i s (.unpredictable i.opcode))

/-- An instruction whose condition fails does nothing, or only logs its UNPREDICTABLE operands. Where the current
condition fails, every instruction but B<cond> (which has its own condition), BKPT and the unpredictable slots
leaves the state unchanged or, for UNPREDICTABLE operands, only logs. Spec: 30_encoding.md R98; 00_scope.md R14. -/
def Obligations.FailedConditionDoesNothing : Prop :=
  ∀ (i : Instr) (s : State), s.psr.conditionPassed = false → (∀ c m, i ≠ .bCond c m) →
    exec i s = .next s ∨ exec i s = .next (s.emit (.unpredictable i.opcode))

/-- LDREX, LDREXB and LDREXH: value, reservation, alignment, refusal. The register gets the value, zero-extended, and
the reservation of exactly that address and size is added; a misaligned address (LOG: misaligned, access_failed) or
a refused load (LOG: access_failed) is a no-op without a reservation; nothing else changes. That the region map of
the state decides what the port admits and that a device answers a free value is the model's choice (log 3, log 4),
and so is that ROM behaves as RAM (log 22). The two LOG events of a misaligned address, misaligned then
access_failed, are in the order this model deduces (log 19). Spec: 48_dual_exclusive_tablebranch32.md R301, R307,
R308; 20_memory.md R61, R65, R67, R74. -/
def Obligations.ExclusiveLoadResults : Prop :=
  ∀ (s : State) (rn rt : RegNum) (sb sb' : BitVec 4) (imm8 : BitVec 8),
    (DecodesAs32 (0xE85#12 ++ rn) (rt ++ sb ++ imm8) (.ldrex rn rt sb imm8) ∧
      DecodesAs32 (0xE8D#12 ++ rn) (rt ++ sb ++ 4#4 ++ sb') (.ldrexb rn rt sb sb') ∧
      DecodesAs32 (0xE8D#12 ++ rn) (rt ++ sb ++ 5#4 ++ sb') (.ldrexh rn rt sb sb')) ∧
    (s.psr.conditionPassed = true →
    if rt = 13#4 ∨ rt = 15#4 ∨ rn = 15#4 then
      OnlyLogs (.ldrex rn rt sb imm8) s (.unpredictable (Instr.ldrex rn rt sb imm8).opcode) ∧
        OnlyLogs (.ldrexb rn rt sb sb') s (.unpredictable (Instr.ldrexb rn rt sb sb').opcode) ∧
        OnlyLogs (.ldrexh rn rt sb sb') s (.unpredictable (Instr.ldrexh rn rt sb sb').opcode)
    else
      LoadsExclusive (.ldrex rn rt sb imm8) s rt (s.x32 rn + (imm8 ++ 0#2).setWidth 32) .word ∧
        LoadsExclusive (.ldrexb rn rt sb sb') s rt (s.x32 rn) .byte ∧
        LoadsExclusive (.ldrexh rn rt sb sb') s rt (s.x32 rn) .half)

/-- STREX, STREXB and STREXH: match, store, result, records removed. With a matching reservation the bytes are stored
and Rd gets 0, without one memory is unchanged and Rd gets 1; either way every record overlapping the range is
removed. A misaligned address (LOG: misaligned, access_failed), and a refused store after a match (LOG:
access_failed), are no-ops that keep the records. That a match needs the same address and size, and that every
overlapping record goes, is the spec's decision D29. That the region map of the state decides what the port admits
and that a device's store changes no byte is the model's choice (log 3, log 4), and so is that ROM behaves as RAM
(log 22). The two LOG events of a misaligned address, misaligned then access_failed, are in the order this model
deduces (log 19). Spec: 48_dual_exclusive_tablebranch32.md R300, R305, R306; 20_memory.md R61, R65, R67, R75;
92_eei_decisions.md D29. -/
def Obligations.ExclusiveStoreResults : Prop :=
  ∀ (s : State) (rn rt rd : RegNum) (sb : BitVec 4) (imm8 : BitVec 8),
    (DecodesAs32 (0xE84#12 ++ rn) (rt ++ rd ++ imm8) (.strex rn rt rd imm8) ∧
      DecodesAs32 (0xE8C#12 ++ rn) (rt ++ sb ++ 4#4 ++ rd) (.strexb rn rt sb rd) ∧
      DecodesAs32 (0xE8C#12 ++ rn) (rt ++ sb ++ 5#4 ++ rd) (.strexh rn rt sb rd)) ∧
    (s.psr.conditionPassed = true →
    if rd = 13#4 ∨ rd = 15#4 ∨ rt = 13#4 ∨ rt = 15#4 ∨ rn = 15#4 ∨ rd = rn ∨ rd = rt then
      OnlyLogs (.strex rn rt rd imm8) s (.unpredictable (Instr.strex rn rt rd imm8).opcode) ∧
        OnlyLogs (.strexb rn rt sb rd) s (.unpredictable (Instr.strexb rn rt sb rd).opcode) ∧
        OnlyLogs (.strexh rn rt sb rd) s (.unpredictable (Instr.strexh rn rt sb rd).opcode)
    else
      StoresExclusive (.strex rn rt rd imm8) s rd (s.x32 rn + (imm8 ++ 0#2).setWidth 32) .word (s.x32 rt) ∧
        StoresExclusive (.strexb rn rt sb rd) s rd (s.x32 rn) .byte (s.x32 rt) ∧
        StoresExclusive (.strexh rn rt sb rd) s rd (s.x32 rn) .half (s.x32 rt))

/-- STREX right after LDREX succeeds exactly once. LDREX at an aligned, admitted address followed at once by STREX there
stores and returns 0; a second STREX at once returns 1 and leaves memory unchanged. That a match needs the same
address and size is the spec's decision D29. That the region map of the state decides what the port admits, that a
device answers a free value and its store changes no byte, and that ROM that admits the store takes it as RAM does,
is the model's choice (log 3, log 4, log 22). Spec: 20_memory.md R75; 48_dual_exclusive_tablebranch32.md R300, R301;
60_exceptions.md R350; 92_eei_decisions.md D29. -/
def Obligations.LdrexStrexForwardProgress : Prop :=
  ∀ (s : State) (rn rt rt2 rd : RegNum) (sb : BitVec 4) (imm8 : BitVec 8), s.psr.conditionPassed = true →
    ldrexUnpredictable rn rt = false → strexUnpredictable rn rt2 rd = false → rn ≠ rt →
    let a := s.x32 rn + (imm8 ++ 0#2).setWidth 32
    a.toNat % 4 = 0 → s.readable a .word = true → s.writable a .word = true →
    ∃ s1 s2 s3, exec (.ldrex rn rt sb imm8) s = .next s1 ∧ exec (.strex rn rt2 rd imm8) s1 = .next s2 ∧
      s2.x32 rd = 0#32 ∧ StoredAt s1 s2 a .word (s1.x32 rt2) ∧
      exec (.strex rn rt2 rd imm8) s2 = .next s3 ∧ s3.x32 rd = 1#32 ∧ SameMemory s2 s3

/-- TBB and TBH branch forward by twice the table entry. The entry is the byte at Rn + Rm, or the halfword at Rn + 2 Rm;
the PC becomes the PC read value plus twice the entry; a refused read and UNPREDICTABLE operands are logged no-ops;
nothing else changes. That the region map of the state decides what the port admits and that a device answers a free
value is the model's choice (log 3, log 4), and so is that ROM behaves as RAM (log 22). Spec:
48_dual_exclusive_tablebranch32.md R309, R310; 20_memory.md R61, R67. -/
def Obligations.TableBranchResults : Prop :=
  ∀ (s : State) (rn rm : RegNum) (sb : BitVec 8),
    (DecodesAs32 (0xE8D#12 ++ rn) (sb ++ 0#4 ++ rm) (.tbb rn sb rm) ∧
      DecodesAs32 (0xE8D#12 ++ rn) (sb ++ 1#4 ++ rm) (.tbh rn sb rm)) ∧
    (s.psr.conditionPassed = true →
    let byteAt := s.x32 rn + s.x32 rm
    let halfAt := s.x32 rn + (s.x32 rm <<< 1)
    if rn = 13#4 ∨ rm = 13#4 ∨ rm = 15#4 ∨ (s.psr.inITBlock = true ∧ s.psr.lastInITBlock = false) then
      OnlyLogs (.tbb rn sb rm) s (.unpredictable (Instr.tbb rn sb rm).opcode) ∧
        OnlyLogs (.tbh rn sb rm) s (.unpredictable (Instr.tbh rn sb rm).opcode)
    else
      (if s.readable byteAt .byte then
        Completes (.tbb rn sb rm) s fun t =>
          OnlyBranches s t ((s.pc + 2 * s.readValue byteAt .byte) &&& 0xFFFFFFFE#32)
      else OnlyLogs (.tbb rn sb rm) s (.accessFailed byteAt)) ∧
        (if s.readable halfAt .half then
          Completes (.tbh rn sb rm) s fun t =>
            OnlyBranches s t ((s.pc + 2 * s.readValue halfAt .half) &&& 0xFFFFFFFE#32)
        else OnlyLogs (.tbh rn sb rm) s (.accessFailed halfAt)))

/-- Taking an exception: the frame, LR, PC, T, mode, IPSR, SPSEL and the active record. With an aligned live stack whose
eight frame words may be written, entry pushes R0 to R3, R12, LR, the return address and xPSR with the alignment bit
at the 8-byte aligned frame, writes the EXC_RETURN value to LR and the vector to PC and T, enters Handler mode on
the Main stack with IPSR = v and ITSTATE = 0, marks v active and innermost; flags, masks, R0 to R12, reservations
and all other bytes stay. That the region map of the state decides what the port admits, that a device's store
changes no byte, that ROM that admits the frame takes it as RAM does, and that the vector of a number not below NVEC
is 0, is the model's own (log 3, log 4, log 22, log 19). Spec: 60_exceptions.md R334, R335, R336, R337. -/
def Obligations.ExceptionEntryResults : Prop :=
  ∀ (s : State) (v : Nat), s.nvic.activeStack.length < s.params.nvec → s.sp.toNat % 4 = 0 →
    let fp := if s.sp.getLsbD 2 then s.sp - 36 else s.sp - 32
    s.wordsWritable fp 8 →
    ∃ t, s.takeException v = .next t ∧
      SameMemoryOutsideWords s t fp 8 ∧ (s.wordsPlain fp 8 → FrameHolds s t fp) ∧
      t.gpr = s.gpr ∧
      (if s.mode = .thread ∧ s.spsel = true then t.spProcess = fp ∧ t.spMain = s.spMain
        else t.spMain = fp ∧ t.spProcess = s.spProcess) ∧
      t.lr = (if s.mode = .handler then 0xFFFFFFF1#32 else if s.spsel then 0xFFFFFFFD#32 else 0xFFFFFFF9#32) ∧
      t.pc = s.nvic.vt.getD v 0 &&& 0xFFFFFFFE#32 ∧
      t.psr = { s.psr with t := (s.nvic.vt.getD v 0).getLsbD 0, ipsr := BitVec.ofNat 9 v, itstate := 0 } ∧
      t.mode = .handler ∧ t.spsel = false ∧ t.primask = s.primask ∧ t.faultmask = s.faultmask ∧
      t.basepri = s.basepri ∧ t.excl = s.excl ∧
      t.nvic = { s.nvic with active := s.nvic.active.set v true, activeStack := s.nvic.activeStack ++ [v],
                             nested := s.nvic.nested + 1 }

/-- BX, BLX and loads of the PC with an EXC_RETURN value in Handler mode are exception returns. In Handler mode a target
with bit 0 set and top nibble 1111, from BX, BLX (after LR is written) or a load of the PC (after the registers and
the write-back), starts an exception return with that value. Spec: 60_exceptions.md R339, R340; 40_alu_primitives.md
R146, R148; 43_special_data_bx.md R213, R214. -/
def Obligations.ExceptionReturnsAreDetected : Prop :=
  ∀ (s : State), s.psr.conditionPassed = true → s.mode = .handler →
    (∀ (rm : RegNum) (sb : BitVec 3), ¬s.midIT → rm ≠ 15#4 → (s.x16 rm).getLsbD 0 = true →
      (s.x16 rm).extractLsb' 28 4 = 0xF#4 →
      exec (.bx rm sb) s = s.exceptionReturn (s.x16 rm) ∧
        exec (.blxReg rm sb) s =
          State.exceptionReturn { s with lr := (s.pc &&& 0xFFFFFFFE#32) ||| 1#32 } (s.x16 rm)) ∧
      ∀ (i : Instr) (regs : List RegNum) (start : Word) (wb : Option (RegNum × Word)) (vs : List (RegNum × Word))
        (s1 s2 : State) (target : Word), LoadForm s i regs true start wb → s.loadRegs start regs = .ok vs s1 →
        s1.loadA (wordAt start regs.length) .word = .ok target s2 → target.getLsbD 0 = true →
        target.extractLsb' 28 4 = 0xF#4 →
        exec i s = ((s2.writeAll vs).writeBack wb).exceptionReturn target

/-- A valid exception return restores the frame and deactivates the innermost exception. A value with low nibble 1, 9 or
D, the innermost exception active and, for Thread, depth 1: the eight words are popped from the bank named, xPSR,
mode and SPSEL restored, the exception deactivated; where mode and IPSR then contradict each other UsageFault is
thrown: one more key of exception 6 is pending and the others are as before, or, with the store full or NVEC below
7, the request is dropped with a LOG event. That the region map of the state decides what the port admits and that
ROM answers its stored bytes as RAM does is the model's choice (log 3, log 22). Spec: 60_exceptions.md R330, R337,
R340, R341. -/
def Obligations.ExceptionReturnResults : Prop :=
  ∀ (s : State) (a : Word) (target : Mode) (process : Bool) (r : Nat),
    (a.extractLsb' 0 4, target, process) ∈
      [(0x1#4, Mode.handler, false), (0x9#4, Mode.thread, false), (0xD#4, Mode.thread, true)] →
    s.nvic.activeStack.getLast? = some r → s.nvic.active[r]? = some true → (target = .thread → s.nvic.nested = 1) →
    let fp := if process then s.spProcess else s.spMain
    let w (j : Nat) := s.mem.readLE (wordAt fp j).toNat 4
    fp.toNat % 4 = 0 → s.wordsReadable fp 8 → s.wordsPlain fp 8 →
    ∃ t, s.exceptionReturn a = .next t ∧
      t.x32 0#4 = w 0 ∧ t.x32 1#4 = w 1 ∧ t.x32 2#4 = w 2 ∧ t.x32 3#4 = w 3 ∧ t.x32 12#4 = w 4 ∧
        (∀ k : RegNum, 4 ≤ k.toNat → k.toNat < 12 → t.x32 k = s.x32 k) ∧
        t.lr = w 5 ∧ t.pc = w 6 &&& 0xFFFFFFFE#32 ∧ t.psr = Psr.ofWord (w 7) ∧
        (let sp := ((fp + 32) ||| (if (w 7).getLsbD 9 then 4#32 else 0#32)) &&& 0xFFFFFFFC#32
         if process then t.spProcess = sp ∧ t.spMain = s.spMain else t.spMain = sp ∧ t.spProcess = s.spProcess) ∧
        t.mode = target ∧ t.spsel = process ∧ t.itNew = true ∧
        t.nvic.active = s.nvic.active.set r false ∧ t.nvic.activeStack = s.nvic.activeStack.dropLast ∧
        t.nvic.nested = s.nvic.nested - 1 ∧ t.primask = s.primask ∧ t.faultmask = s.faultmask ∧
        t.basepri = s.basepri ∧ t.excl = s.excl ∧ SameMemory s t ∧
        t.nvic.vt = s.nvic.vt ∧ t.nvic.pri = s.nvic.pri ∧ t.nvic.prigroup = s.nvic.prigroup ∧
        if (target = .handler ↔ t.psr.ipsr = 0#9) then
          if 7 ≤ s.params.nvec ∧ s.nvic.pending.length < s.params.nvec then
            t.log = s.log ∧ ∀ k, t.nvic.pending.count k =
              s.nvic.pending.count k + (if k = ⟨s.nvic.groupPri 6, 6⟩ then 1 else 0)
          else t.nvic.pending = s.nvic.pending ∧ t.log = .dropped 6 :: s.log
        else t.nvic.pending = s.nvic.pending ∧ t.log = s.log

/-- An exception return that fails its checks changes nothing and throws UsageFault. A value with an unknown low nibble,
an empty active FIFO, an inactive innermost exception, or a Thread target at depth other than 1: the frame is not
popped, and exception 6 is thrown. Spec: 60_exceptions.md R340, R341, R344. -/
def Obligations.FailedReturnPendsUsageFault : Prop :=
  ∀ (s : State) (a : Word),
    let nibble := a.extractLsb' 0 4
    (nibble ∉ [0x1#4, 0x9#4, 0xD#4] ∨ s.nvic.activeStack = [] ∨
      (∃ r, s.nvic.activeStack.getLast? = some r ∧ s.nvic.active.getD r false = false) ∨
      (nibble ≠ 0x1#4 ∧ s.nvic.nested ≠ 1)) →
    s.exceptionReturn a = .next (s.throwException 6)

/-- throw_exception adds one key at the present group priority, or drops the request. Vectors 0, 1 and beyond NVEC, and
any vector with a full store, are dropped with a LOG event; otherwise one more key of that vector is pending and
nothing else changes, a vector already pending included. Spec: 60_exceptions.md R328, R330. -/
def Obligations.ThrowExceptionResults : Prop :=
  ∀ (s : State) (n : Nat),
    if n < 2 ∨ s.params.nvec ≤ n ∨ s.params.nvec ≤ s.nvic.pending.length then
      s.throwException n = s.emit (.dropped n)
    else
      let t := s.throwException n
      t = s.setNvic { s.nvic with pending := t.nvic.pending } ∧
        ∀ k, t.nvic.pending.count k = s.nvic.pending.count k + (if k = ⟨s.nvic.groupPri n, n⟩ then 1 else 0)

/-- The group priority is the raw value without its sub-priority bits; negative priorities are not split. For raw 0 to
255 the group priority is raw minus raw mod 2^(PRIGROUP+1), which is raw AND preempt_mask; negative raw priorities
are their own group priority. That negative priorities are not split is the spec's own decision D14. Spec:
60_exceptions.md R325; 92_eei_decisions.md D14. -/
def Obligations.GroupPriorityArithmetic : Prop :=
  (∀ (g : Fin 8) (raw : Nat), raw < 256 →
    groupOf g raw = (raw : Int) - raw % 2 ^ (g.val + 1) ∧
      groupOf g raw = (BitVec.ofNat 8 raw &&& preemptMask g).toNat ∧
      (∀ neg : Int, neg < 0 → groupOf g neg = neg) ∧ (subMask g).toNat = 2 ^ (g.val + 1) - 1 ∧
      preemptMask g = ~~~subMask g) ∧
  ∀ (c : Nvic) (n : Nat), c.groupPri n = groupOf c.prigroup (c.raw n) ∧
    (0 ≤ c.raw n → c.subPri n = c.raw n - c.groupPri n) ∧ (c.raw n < 0 → c.subPri n = 0)

/-- What preempts under PRIMASK, FAULTMASK, BASEPRI and the innermost active exception. With mask gating, a key preempts
exactly when its group priority is below the innermost active one and below the boost: -1 under FAULTMASK, else 0
under PRIMASK, else the group of BASEPRI where it is not 0. Without mask gating a key preempts in Thread mode
always, and in Handler mode exactly when its group priority is below the innermost active one, or none is active.
Spec: 60_exceptions.md R331, R332; 92_eei_decisions.md D17, D18. -/
def Obligations.MasksGatePreemption : Prop :=
  ∀ (s : State) (gp : Int),
    (s.params.maskGating = true → gp ≤ 255 →
      (s.preempts gp = true ↔
        (∀ v, s.nvic.activeStack.getLast? = some v → gp < s.nvic.groupPri v) ∧
          (s.faultmask = true → gp < -1) ∧ (s.faultmask = false → s.primask = true → gp < 0) ∧
          (s.faultmask = false → s.primask = false → s.basepri ≠ 0#8 →
            gp < (s.basepri &&& preemptMask s.nvic.prigroup).toNat))) ∧
      (s.params.maskGating = false →
        (s.preempts gp = true ↔
          s.mode = .thread ∨ ∀ v, s.nvic.activeStack.getLast? = some v → gp < s.nvic.groupPri v))

/-- The exception check takes a key of minimal group priority that preempts, and removes that key alone from the store.
If the check answers a vector, a pending key of it has minimal group priority (of minimal packed value under
lowest_vector) and preempts, and one copy of it is removed; if it answers none, no key of minimal group priority
preempts. Which of several equal keys is taken under TIE_BREAK = any is a free value, and that every exception taken
counts as one draw of it (freeIx advances by 1) is the model's choice (log 5). Spec: 60_exceptions.md R332, R333. -/
def Obligations.CheckTakesTheMostUrgent : Prop :=
  ∀ s : State, (∀ j ∈ s.nvic.pending, j.vector < 512) →
    (∀ v t, s.checkException = some (v, t) →
      ∃ k ∈ s.nvic.pending, k.vector = v ∧ (∀ j ∈ s.nvic.pending, k.gp ≤ j.gp) ∧
        (s.params.tieBreak = .lowestVector → ∀ j ∈ s.nvic.pending, j.gp = k.gp → k.vector ≤ j.vector) ∧
        s.preempts k.gp = true ∧
        t = { s with nvic := { s.nvic with pending := s.nvic.pending.erase k }, freeIx := s.freeIx + 1 }) ∧
      (s.checkException = none →
        ∀ k ∈ s.nvic.pending, (∀ j ∈ s.nvic.pending, k.gp ≤ j.gp) → s.preempts k.gp = false)

/-- The stacked status word has every field at its bit, and restores what it was made from. N, Z, C, V, Q at bits 31 to
27, IT[1:0] at 26:25, T at 24, IT[7:2] at 15:10, the alignment bit at 9, IPSR at 8:0, zeros at 23:16; reading the
word back gives the fields. Spec: 10_state.md R29; 60_exceptions.md R335, R340. -/
def Obligations.StatusWordLayout : Prop :=
  ∀ (p : Psr) (align : Bool),
    let w := p.toWord align
    w.getLsbD 31 = p.n ∧ w.getLsbD 30 = p.z ∧ w.getLsbD 29 = p.c ∧ w.getLsbD 28 = p.v ∧ w.getLsbD 27 = p.q ∧
      w.extractLsb' 25 2 = p.itstate.extractLsb' 0 2 ∧ w.getLsbD 24 = p.t ∧ w.extractLsb' 16 8 = 0#8 ∧
      w.extractLsb' 10 6 = p.itstate.extractLsb' 2 6 ∧ w.getLsbD 9 = align ∧ w.extractLsb' 0 9 = p.ipsr ∧
      Psr.ofWord w = p

/-- Words are little-endian and a mixed-width access sees the bytes as stored. The value of n bytes is the sum of byte k
times 256^k; after a word is written its bytes and halves read as stored, and every other byte is as before. Spec:
20_memory.md R62. -/
def Obligations.MemoryIsLittleEndian : Prop :=
  ∀ (m : Memory) (a : Nat) (v : Word),
    (m.readLE a 4).toNat = (m.readByte a).toNat + 256 * (m.readByte (a + 1)).toNat +
        256 ^ 2 * (m.readByte (a + 2)).toNat + 256 ^ 3 * (m.readByte (a + 3)).toNat ∧
      (m.readLE a 2).toNat = (m.readByte a).toNat + 256 * (m.readByte (a + 1)).toNat ∧
      (m.writeLE a v 4).readLE a 2 = v &&& 0xFFFF#32 ∧ (m.writeLE a v 4).readLE (a + 2) 2 = v >>> 16 ∧
      (∀ b, b < a ∨ a + 4 ≤ b → (m.writeLE a v 4).readByte b = m.readByte b)

/-- SSAT, USAT, QADD8 and QADD16 clamp and set Q stickily; CLREX drops every reservation. The destination gets the
clamped value, lane by lane for the packed forms, Q becomes 1 where anything was clamped and else keeps its value,
and nothing else changes; CLREX empties the exclusive record only. Where the current condition fails, or an operand
is out of range, nothing changes at all: that R98's condition check holds for these operations is the model's
reading (log 20), that operands out of range have no effect is its choice (log 19), and so is R150's register range
for USAT, QADD8 and QADD16 (log 21). Spec: 40_alu_primitives.md R139, R140, R150 to R154; 00_scope.md R15;
30_encoding.md R98. -/
def Obligations.SaturatingOperationResults : Prop :=
  ∀ (s : State) (d n m : RegNum) (sat : Nat) (sh : SatShift),
    let x := (sh.apply (s.x16 n) s.psr.c).toInt
    let lane (w k : Nat) (r : RegNum) := (s.x32 r).extractLsb' (w * k) w |>.toInt
    let clamp (w : Nat) (i : Int) : Int := max (-(2 ^ (w - 1))) (min i (2 ^ (w - 1) - 1))
    (s.psr.conditionPassed = true →
      ((AluOp.ssat d n sat sh).valid = true →
        let t := aluOp (.ssat d n sat sh) s
        (t.x32 d).toInt = clamp sat x ∧ t.psr = { s.psr with q := s.psr.q || decide (clamp sat x ≠ x) } ∧
          Writes s t [d]) ∧
        ((AluOp.usat d n sat sh).valid = true →
          let t := aluOp (.usat d n sat sh) s
          ((t.x32 d).toNat : Int) = max 0 (min x (2 ^ sat - 1)) ∧
            t.psr = { s.psr with q := s.psr.q || decide (max 0 (min x (2 ^ sat - 1)) ≠ x) } ∧ Writes s t [d]) ∧
        ((AluOp.qadd8 d n m).valid = true →
          let t := aluOp (.qadd8 d n m) s
          (∀ k < 4, ((t.x32 d).extractLsb' (8 * k) 8).toInt = clamp 8 (lane 8 k n + lane 8 k m)) ∧
            t.psr = { s.psr with q := s.psr.q || ((List.range 4).any fun k =>
              decide (clamp 8 (lane 8 k n + lane 8 k m) ≠ lane 8 k n + lane 8 k m)) } ∧ Writes s t [d]) ∧
        ((AluOp.qadd16 d n m).valid = true →
          let t := aluOp (.qadd16 d n m) s
          (∀ k < 2, ((t.x32 d).extractLsb' (16 * k) 16).toInt = clamp 16 (lane 16 k n + lane 16 k m)) ∧
            t.psr = { s.psr with q := s.psr.q || ((List.range 2).any fun k =>
              decide (clamp 16 (lane 16 k n + lane 16 k m) ≠ lane 16 k n + lane 16 k m)) } ∧ Writes s t [d]) ∧
        aluOp .clrex s = s.setExcl []) ∧
      ∀ op : AluOp, op.valid = false ∨ s.psr.conditionPassed = false → aluOp op s = s

/-- A special register reads back what was written, at the bits it has, and no other is changed. PRIMASK and FAULTMASK
keep bit 0, BASEPRI bits 7:0, CONTROL bit 1, the stack pointers all but bits 1:0; writing one leaves the other five
and every other part of the state as it was: the state is equal but for the one field written. That the other bits
of a written value are ignored is read from the widths of the registers (log 19). Spec: 00_scope.md R8; 10_state.md
R24, R35 to R38. -/
def Obligations.SpecialRegisterReadback : Prop :=
  ∀ (s : State) (r r' : SpecialReg) (v : Word),
    let t := s.writeSpecial r v
    t.readSpecial r' =
        (if r' = r then
          v &&& (match r with
            | .primask => 1#32
            | .faultmask => 1#32
            | .basepri => 0xFF#32
            | .control => 2#32
            | .spMain => 0xFFFFFFFC#32
            | .spProcess => 0xFFFFFFFC#32)
        else s.readSpecial r') ∧
      t = (match r with
        | .primask => { s with primask := t.primask }
        | .faultmask => { s with faultmask := t.faultmask }
        | .basepri => { s with basepri := t.basepri }
        | .control => { s with spsel := t.spsel }
        | .spMain => { s with spMain := t.spMain }
        | .spProcess => { s with spProcess := t.spProcess })
end

