-- ==== Sys2Proof/Laws/Decode.lean ====
section
/-! SUPPORT. Lemmas about the length rule and the fields of halfwords. -/

namespace Sys2Proof

/-- R90, bit by bit. -/
theorem prefix32_eq (hw : Half) :
    is32BitPrefix hw =
      (hw.getLsbD 15 && hw.getLsbD 14 && hw.getLsbD 13 && (hw.getLsbD 12 || hw.getLsbD 11)) := by
  have e : ∀ k < 5, hw.getLsbD (11 + k) = (hw.extractLsb' 11 5).getLsbD k := fun k hk => by simp [hk]
  rw [e 4 (by decide), e 3 (by decide), e 2 (by decide), e 1 (by decide), show 11 = 11 + 0 from rfl, e 0 (by decide)]
  unfold is32BitPrefix
  generalize hw.extractLsb' 11 5 = v
  revert v
  decide

/-- R274: an unmapped opcode of the miscellaneous group is a 16-bit one. -/
theorem prefix32_of_unmapped16 {hw : Half} (h : unmapped16 hw = true) : is32BitPrefix hw = false := by
  have h' := (Bool.and_eq_true_iff.mp h).1
  have hb : hw.getLsbD 14 = (hw.extractLsb' 12 4).getLsbD 2 := by simp
  rw [prefix32_eq, hb, eq_of_beq h']
  simp

end Sys2Proof
end

