-- ==== Sys2Proof/Laws/Memory.lean ====
section
/-! SUPPORT. What memory operations do: a read after a write, the bytes a write leaves alone, and the canonical form. -/

namespace Sys2Proof.Machine

/-! ### Reading -/

theorem lookupCell_insertCell (a c : Nat) (b : Byte) (l : List Host.Cell) :
    lookupCell c (insertCell a b l) = if c = a then b else lookupCell c l := by
  induction l with
  | nil => simp [insertCell, lookupCell]
  | cons x rest ih =>
    obtain ⟨d, y⟩ := x
    unfold insertCell
    split
    · simp [lookupCell]
    · split
      · subst_vars
        by_cases h : c = d <;> simp [lookupCell, h]
      · by_cases h : c = d
        · subst h
          simp [lookupCell, Ne.symm ‹_›]
        · simp [lookupCell, h, ih]

theorem lookupCell_filter (a c : Nat) (l : List Host.Cell) :
    lookupCell c (l.filter (fun x => x.1 != a)) = if c = a then unlistedByte else lookupCell c l := by
  induction l with
  | nil => simp [lookupCell]
  | cons x rest ih =>
    obtain ⟨d, y⟩ := x
    by_cases h : d = a
    · subst h
      by_cases hc : c = d
      · subst hc
        simpa using ih
      · simpa [lookupCell, hc] using ih
    · by_cases hc : c = d
      · subst hc
        simp [lookupCell, h]
      · simpa [lookupCell, h, hc] using ih

/-- What a byte write leaves at every address. -/
@[simp] theorem Memory.readByte_writeByte (m : Memory) (a c : Nat) (b : Byte) :
    (m.writeByte a b).readByte c = if c = a then b else m.readByte c := by
  unfold Memory.writeByte Memory.readByte
  split
  · subst_vars
    exact lookupCell_filter a c m.cells
  · exact lookupCell_insertCell a c b m.cells

/-- What a write of `n` bytes leaves at every address (R62). -/
theorem Memory.readByte_writeLE (m : Memory) (a : Nat) (v : Word) (n c : Nat) :
    (m.writeLE a v n).readByte c =
      if a ≤ c ∧ c < a + n then (v >>> (8 * (c - a))).setWidth 8 else m.readByte c := by
  induction n generalizing m a v with
  | zero =>
    simp [Memory.writeLE]
  | succ n ih =>
    rw [Memory.writeLE, ih, Memory.readByte_writeByte]
    by_cases h0 : c = a
    · subst h0
      simp
    · by_cases h1 : a + 1 ≤ c ∧ c < a + 1 + n
      · have h2 : a ≤ c ∧ c < a + (n + 1) := by omega
        have h3 : 8 * (c - a) = 8 + 8 * (c - (a + 1)) := by omega
        rw [if_pos h1, if_pos h2, h3, BitVec.shiftRight_add]
      · have h2 : ¬(a ≤ c ∧ c < a + (n + 1)) := by omega
        rw [if_neg h1, if_neg h0, if_neg h2]

/-- Equal bytes read as equal words. -/
theorem Memory.readLE_congr {m m' : Memory} (a n : Nat) (h : ∀ c, a ≤ c → c < a + n → m.readByte c = m'.readByte c) :
    m.readLE a n = m'.readLE a n := by
  induction n generalizing a with
  | zero => rfl
  | succ n ih =>
    rw [Memory.readLE, Memory.readLE, h a (by omega) (by omega), ih (a + 1) fun c h1 h2 => h c (by omega) (by omega)]

/-- A word written is the word read. -/
theorem Memory.readLE_writeLE (m : Memory) (a : Nat) (v : Word) : (m.writeLE a v 4).readLE a 4 = v := by
  have e : ∀ k, k < 4 → (m.writeLE a v 4).readByte (a + k) = (v >>> (8 * k)).setWidth 8 := fun k hk => by
    rw [Memory.readByte_writeLE, if_pos (by omega), Nat.add_sub_cancel_left]
  have e0 := e 0 (by decide)
  have e1 := e 1 (by decide)
  have e2 := e 2 (by decide)
  have e3 := e 3 (by decide)
  simp only [Nat.add_zero] at e0
  simp only [Memory.readLE, Nat.add_assoc, e0, e1, e2, e3]
  ext i hi
  have g := BitVec.getLsbD_eq_getElem (x := v) hi
  simp
  rcases Nat.lt_or_ge i 8 with h | h
  · simp [h, g]
  · rcases Nat.lt_or_ge i 16 with h1 | h1
    · simp [show ¬i < 8 by omega, show i - 8 < 8 by omega, show 8 + (i - 8) = i by omega, g]
    · rcases Nat.lt_or_ge i 24 with h2 | h2
      · simp [show ¬i < 8 by omega, show ¬i - 8 < 8 by omega, show i - 8 - 8 < 8 by omega,
          show 16 + (i - 8 - 8) = i by omega, g]
      · simp [show ¬i < 8 by omega, show ¬i - 8 < 8 by omega, show ¬i - 8 - 8 < 8 by omega,
          show 24 + (i - 8 - 8 - 8) = i by omega, show i - 8 - 8 - 8 < 8 by omega, g]

/-! ### The canonical form -/

/-- The canonical form says that addresses rise, stay below 2^32, and no cell holds the unlisted byte. -/
theorem cellsWf_iff (l : List Host.Cell) :
    cellsWf l = true ↔
      l.Pairwise (fun x y => x.1 < y.1) ∧ ∀ x ∈ l, x.1 < 2 ^ 32 ∧ x.2 ≠ unlistedByte := by
  induction l with
  | nil => simp [cellsWf]
  | cons x rest ih =>
    obtain ⟨a, b⟩ := x
    cases rest with
    | nil => simp [cellsWf]
    | cons y rest' =>
      obtain ⟨c, d⟩ := y
      simp only [cellsWf, Bool.and_eq_true, decide_eq_true_eq, bne_iff_ne, ih]
      constructor
      · rintro ⟨⟨hac, hb⟩, hp, hall⟩
        refine ⟨List.pairwise_cons.mpr ⟨?_, hp⟩, ?_⟩
        · intro z hz
          rcases List.mem_cons.mp hz with rfl | hz
          · exact hac
          · exact Nat.lt_trans hac ((List.pairwise_cons.mp hp).1 z hz)
        · intro z hz
          rcases List.mem_cons.mp hz with rfl | hz
          · exact ⟨Nat.lt_trans hac (hall (c, d) (by simp)).1, hb⟩
          · exact hall z hz
      · rintro ⟨hp, hall⟩
        have hp' := List.pairwise_cons.mp hp
        exact ⟨⟨hp'.1 (c, d) (by simp), (hall (a, b) (by simp)).2⟩, hp'.2, fun z hz => hall z (by simp [hz])⟩

theorem mem_insertCell {a : Nat} {b : Byte} {l : List Host.Cell} {x : Host.Cell} (h : x ∈ insertCell a b l) :
    x = (a, b) ∨ x ∈ l := by
  induction l with
  | nil => simpa [insertCell] using h
  | cons y rest ih =>
    obtain ⟨c, d⟩ := y
    unfold insertCell at h
    split at h
    · simpa using h
    · split at h
      · rcases List.mem_cons.mp h with h | h <;> simp [h]
      · rcases List.mem_cons.mp h with h | h
        · simp [h]
        · rcases ih h with h | h <;> simp [h]

theorem pairwise_insertCell (a : Nat) (b : Byte) {l : List Host.Cell} (h : l.Pairwise (fun x y => x.1 < y.1)) :
    (insertCell a b l).Pairwise (fun x y => x.1 < y.1) := by
  induction l with
  | nil => simp [insertCell]
  | cons y rest ih =>
    obtain ⟨c, d⟩ := y
    have h' := List.pairwise_cons.mp h
    unfold insertCell
    split
    · refine List.pairwise_cons.mpr ⟨fun z hz => ?_, h⟩
      rcases List.mem_cons.mp hz with rfl | hz
      · assumption
      · exact Nat.lt_trans ‹a < c› (h'.1 z hz)
    · split
      · subst_vars
        exact List.pairwise_cons.mpr ⟨h'.1, h'.2⟩
      · refine List.pairwise_cons.mpr ⟨fun z hz => ?_, ih h'.2⟩
        rcases mem_insertCell hz with rfl | hz
        · show c < a
          omega
        · exact h'.1 z hz

/-- A byte write below 2^32 keeps the canonical form. -/
theorem Memory.wf_writeByte {m : Memory} {a : Nat} {b : Byte} (hm : m.wf = true) (ha : a < 2 ^ 32) :
    (m.writeByte a b).wf = true := by
  have h := (cellsWf_iff m.cells).mp hm
  unfold Memory.wf Memory.writeByte
  split
  · exact (cellsWf_iff _).mpr ⟨h.1.filter _, fun x hx => h.2 x (List.mem_filter.mp hx).1⟩
  · refine (cellsWf_iff _).mpr ⟨pairwise_insertCell a b h.1, fun x hx => ?_⟩
    rcases mem_insertCell hx with rfl | hx
    · exact ⟨ha, ‹_›⟩
    · exact h.2 x hx

/-- A write of `n` bytes inside the address space keeps the canonical form. -/
theorem Memory.wf_writeLE {m : Memory} {a : Nat} {v : Word} {n : Nat} (hm : m.wf = true) (ha : a + n ≤ 2 ^ 32) :
    (m.writeLE a v n).wf = true := by
  induction n generalizing m a v with
  | zero => exact hm
  | succ n ih => exact ih (Memory.wf_writeByte hm (by omega)) (by omega)

/-- The memory of `State.reset` has the canonical form. -/
theorem Memory.wf_empty : Memory.empty.wf = true := rfl

/-- In canonical form, memories that read the same are the same: equal memories are equal data. -/
theorem Memory.eq_of_readByte {m m' : Memory} (hm : m.wf = true) (hm' : m'.wf = true)
    (h : ∀ a, m.readByte a = m'.readByte a) : m = m' := by
  obtain ⟨l⟩ := m
  obtain ⟨l'⟩ := m'
  congr
  have h1 := (cellsWf_iff l).mp hm
  have h2 := (cellsWf_iff l').mp hm'
  replace h : ∀ a, lookupCell a l = lookupCell a l' := h
  clear hm hm'
  have hz : ∀ (k : List Host.Cell) (a : Nat), (∀ x ∈ k, a < x.1) → lookupCell a k = unlistedByte := by
    intro k
    induction k with
    | nil => intros; rfl
    | cons x r ih =>
      intro a hx
      have := hx x (by simp)
      simp only [lookupCell, show a ≠ x.1 by omega, if_false]
      exact ih a fun y hy => hx y (by simp [hy])
  induction l generalizing l' with
  | nil =>
    cases l' with
    | nil => rfl
    | cons y r =>
      have := h y.1
      simp only [lookupCell, if_true] at this
      exact absurd this.symm (h2.2 y (by simp)).2
  | cons x r ih =>
    cases l' with
    | nil =>
      have := h x.1
      simp only [lookupCell, if_true] at this
      exact absurd this (h1.2 x (by simp)).2
    | cons y r' =>
      have p1 := List.pairwise_cons.mp h1.1
      have p2 := List.pairwise_cons.mp h2.1
      have key : x.1 = y.1 := by
        rcases Nat.lt_trichotomy x.1 y.1 with hlt | heq | hgt
        · have := h x.1
          rw [hz (y :: r') x.1 (fun z hzm => by
            rcases List.mem_cons.mp hzm with rfl | hzm
            · exact hlt
            · exact Nat.lt_trans hlt (p2.1 z hzm))] at this
          simp only [lookupCell, if_true] at this
          exact absurd this (h1.2 x (by simp)).2
        · exact heq
        · have := h y.1
          rw [hz (x :: r) y.1 (fun z hzm => by
            rcases List.mem_cons.mp hzm with rfl | hzm
            · exact hgt
            · exact Nat.lt_trans hgt (p1.1 z hzm))] at this
          simp only [lookupCell, if_true] at this
          exact absurd this.symm (h2.2 y (by simp)).2
      have hv : x.2 = y.2 := by
        have := h x.1
        simpa [lookupCell, key] using this
      have : x = y := Prod.ext key hv
      subst this
      congr 1
      refine ih r' ⟨p1.2, fun z hz' => h1.2 z (by simp [hz'])⟩ ⟨p2.2, fun z hz' => h2.2 z (by simp [hz'])⟩ ?_
      intro a
      by_cases ha : a = x.1
      · subst ha
        rw [hz r x.1 fun z hz' => p1.1 z hz', hz r' x.1 fun z hz' => p2.1 z hz']
      · simpa [lookupCell, ha] using h a

end Sys2Proof.Machine
end

