-- ==== Sys2Proof/Laws/State.lean ====
section
/-! SUPPORT. One lemma per field per update of State, true by rfl, and the same for the register writes, so that no proof
unfolds a record update. -/

namespace Sys2Proof.Machine

variable (s : State)

section
variable (p : Psr)
@[simp] theorem State.setPsr_gpr : (s.setPsr p).gpr = s.gpr := rfl
@[simp] theorem State.setPsr_spMain : (s.setPsr p).spMain = s.spMain := rfl
@[simp] theorem State.setPsr_spProcess : (s.setPsr p).spProcess = s.spProcess := rfl
@[simp] theorem State.setPsr_lr : (s.setPsr p).lr = s.lr := rfl
@[simp] theorem State.setPsr_pc : (s.setPsr p).pc = s.pc := rfl
@[simp] theorem State.setPsr_psr : (s.setPsr p).psr = p := rfl
@[simp] theorem State.setPsr_primask : (s.setPsr p).primask = s.primask := rfl
@[simp] theorem State.setPsr_faultmask : (s.setPsr p).faultmask = s.faultmask := rfl
@[simp] theorem State.setPsr_basepri : (s.setPsr p).basepri = s.basepri := rfl
@[simp] theorem State.setPsr_spsel : (s.setPsr p).spsel = s.spsel := rfl
@[simp] theorem State.setPsr_mode : (s.setPsr p).mode = s.mode := rfl
@[simp] theorem State.setPsr_itNew : (s.setPsr p).itNew = s.itNew := rfl
@[simp] theorem State.setPsr_nvic : (s.setPsr p).nvic = s.nvic := rfl
@[simp] theorem State.setPsr_excl : (s.setPsr p).excl = s.excl := rfl
@[simp] theorem State.setPsr_mem : (s.setPsr p).mem = s.mem := rfl
@[simp] theorem State.setPsr_regions : (s.setPsr p).regions = s.regions := rfl
@[simp] theorem State.setPsr_params : (s.setPsr p).params = s.params := rfl
@[simp] theorem State.setPsr_halting : (s.setPsr p).halting = s.halting := rfl
@[simp] theorem State.setPsr_halted : (s.setPsr p).halted = s.halted := rfl
@[simp] theorem State.setPsr_log : (s.setPsr p).log = s.log := rfl
@[simp] theorem State.setPsr_freeIx : (s.setPsr p).freeIx = s.freeIx := rfl
end

section
variable (a : Word)
@[simp] theorem State.setPc_gpr : (s.setPc a).gpr = s.gpr := rfl
@[simp] theorem State.setPc_spMain : (s.setPc a).spMain = s.spMain := rfl
@[simp] theorem State.setPc_spProcess : (s.setPc a).spProcess = s.spProcess := rfl
@[simp] theorem State.setPc_lr : (s.setPc a).lr = s.lr := rfl
@[simp] theorem State.setPc_pc : (s.setPc a).pc = a := rfl
@[simp] theorem State.setPc_psr : (s.setPc a).psr = s.psr := rfl
@[simp] theorem State.setPc_primask : (s.setPc a).primask = s.primask := rfl
@[simp] theorem State.setPc_faultmask : (s.setPc a).faultmask = s.faultmask := rfl
@[simp] theorem State.setPc_basepri : (s.setPc a).basepri = s.basepri := rfl
@[simp] theorem State.setPc_spsel : (s.setPc a).spsel = s.spsel := rfl
@[simp] theorem State.setPc_mode : (s.setPc a).mode = s.mode := rfl
@[simp] theorem State.setPc_itNew : (s.setPc a).itNew = s.itNew := rfl
@[simp] theorem State.setPc_nvic : (s.setPc a).nvic = s.nvic := rfl
@[simp] theorem State.setPc_excl : (s.setPc a).excl = s.excl := rfl
@[simp] theorem State.setPc_mem : (s.setPc a).mem = s.mem := rfl
@[simp] theorem State.setPc_regions : (s.setPc a).regions = s.regions := rfl
@[simp] theorem State.setPc_params : (s.setPc a).params = s.params := rfl
@[simp] theorem State.setPc_halting : (s.setPc a).halting = s.halting := rfl
@[simp] theorem State.setPc_halted : (s.setPc a).halted = s.halted := rfl
@[simp] theorem State.setPc_log : (s.setPc a).log = s.log := rfl
@[simp] theorem State.setPc_freeIx : (s.setPc a).freeIx = s.freeIx := rfl
end

section
variable (v : Word)
@[simp] theorem State.setLr_gpr : (s.setLr v).gpr = s.gpr := rfl
@[simp] theorem State.setLr_spMain : (s.setLr v).spMain = s.spMain := rfl
@[simp] theorem State.setLr_spProcess : (s.setLr v).spProcess = s.spProcess := rfl
@[simp] theorem State.setLr_lr : (s.setLr v).lr = v := rfl
@[simp] theorem State.setLr_pc : (s.setLr v).pc = s.pc := rfl
@[simp] theorem State.setLr_psr : (s.setLr v).psr = s.psr := rfl
@[simp] theorem State.setLr_primask : (s.setLr v).primask = s.primask := rfl
@[simp] theorem State.setLr_faultmask : (s.setLr v).faultmask = s.faultmask := rfl
@[simp] theorem State.setLr_basepri : (s.setLr v).basepri = s.basepri := rfl
@[simp] theorem State.setLr_spsel : (s.setLr v).spsel = s.spsel := rfl
@[simp] theorem State.setLr_mode : (s.setLr v).mode = s.mode := rfl
@[simp] theorem State.setLr_itNew : (s.setLr v).itNew = s.itNew := rfl
@[simp] theorem State.setLr_nvic : (s.setLr v).nvic = s.nvic := rfl
@[simp] theorem State.setLr_excl : (s.setLr v).excl = s.excl := rfl
@[simp] theorem State.setLr_mem : (s.setLr v).mem = s.mem := rfl
@[simp] theorem State.setLr_regions : (s.setLr v).regions = s.regions := rfl
@[simp] theorem State.setLr_params : (s.setLr v).params = s.params := rfl
@[simp] theorem State.setLr_halting : (s.setLr v).halting = s.halting := rfl
@[simp] theorem State.setLr_halted : (s.setLr v).halted = s.halted := rfl
@[simp] theorem State.setLr_log : (s.setLr v).log = s.log := rfl
@[simp] theorem State.setLr_freeIx : (s.setLr v).freeIx = s.freeIx := rfl
end

section
variable (g : Vector Word 13)
@[simp] theorem State.setGpr_gpr : (s.setGpr g).gpr = g := rfl
@[simp] theorem State.setGpr_spMain : (s.setGpr g).spMain = s.spMain := rfl
@[simp] theorem State.setGpr_spProcess : (s.setGpr g).spProcess = s.spProcess := rfl
@[simp] theorem State.setGpr_lr : (s.setGpr g).lr = s.lr := rfl
@[simp] theorem State.setGpr_pc : (s.setGpr g).pc = s.pc := rfl
@[simp] theorem State.setGpr_psr : (s.setGpr g).psr = s.psr := rfl
@[simp] theorem State.setGpr_primask : (s.setGpr g).primask = s.primask := rfl
@[simp] theorem State.setGpr_faultmask : (s.setGpr g).faultmask = s.faultmask := rfl
@[simp] theorem State.setGpr_basepri : (s.setGpr g).basepri = s.basepri := rfl
@[simp] theorem State.setGpr_spsel : (s.setGpr g).spsel = s.spsel := rfl
@[simp] theorem State.setGpr_mode : (s.setGpr g).mode = s.mode := rfl
@[simp] theorem State.setGpr_itNew : (s.setGpr g).itNew = s.itNew := rfl
@[simp] theorem State.setGpr_nvic : (s.setGpr g).nvic = s.nvic := rfl
@[simp] theorem State.setGpr_excl : (s.setGpr g).excl = s.excl := rfl
@[simp] theorem State.setGpr_mem : (s.setGpr g).mem = s.mem := rfl
@[simp] theorem State.setGpr_regions : (s.setGpr g).regions = s.regions := rfl
@[simp] theorem State.setGpr_params : (s.setGpr g).params = s.params := rfl
@[simp] theorem State.setGpr_halting : (s.setGpr g).halting = s.halting := rfl
@[simp] theorem State.setGpr_halted : (s.setGpr g).halted = s.halted := rfl
@[simp] theorem State.setGpr_log : (s.setGpr g).log = s.log := rfl
@[simp] theorem State.setGpr_freeIx : (s.setGpr g).freeIx = s.freeIx := rfl
end

section
variable (m : Memory)
@[simp] theorem State.setMem_gpr : (s.setMem m).gpr = s.gpr := rfl
@[simp] theorem State.setMem_spMain : (s.setMem m).spMain = s.spMain := rfl
@[simp] theorem State.setMem_spProcess : (s.setMem m).spProcess = s.spProcess := rfl
@[simp] theorem State.setMem_lr : (s.setMem m).lr = s.lr := rfl
@[simp] theorem State.setMem_pc : (s.setMem m).pc = s.pc := rfl
@[simp] theorem State.setMem_psr : (s.setMem m).psr = s.psr := rfl
@[simp] theorem State.setMem_primask : (s.setMem m).primask = s.primask := rfl
@[simp] theorem State.setMem_faultmask : (s.setMem m).faultmask = s.faultmask := rfl
@[simp] theorem State.setMem_basepri : (s.setMem m).basepri = s.basepri := rfl
@[simp] theorem State.setMem_spsel : (s.setMem m).spsel = s.spsel := rfl
@[simp] theorem State.setMem_mode : (s.setMem m).mode = s.mode := rfl
@[simp] theorem State.setMem_itNew : (s.setMem m).itNew = s.itNew := rfl
@[simp] theorem State.setMem_nvic : (s.setMem m).nvic = s.nvic := rfl
@[simp] theorem State.setMem_excl : (s.setMem m).excl = s.excl := rfl
@[simp] theorem State.setMem_mem : (s.setMem m).mem = m := rfl
@[simp] theorem State.setMem_regions : (s.setMem m).regions = s.regions := rfl
@[simp] theorem State.setMem_params : (s.setMem m).params = s.params := rfl
@[simp] theorem State.setMem_halting : (s.setMem m).halting = s.halting := rfl
@[simp] theorem State.setMem_halted : (s.setMem m).halted = s.halted := rfl
@[simp] theorem State.setMem_log : (s.setMem m).log = s.log := rfl
@[simp] theorem State.setMem_freeIx : (s.setMem m).freeIx = s.freeIx := rfl
end

section
variable (e : List ExclRecord)
@[simp] theorem State.setExcl_gpr : (s.setExcl e).gpr = s.gpr := rfl
@[simp] theorem State.setExcl_spMain : (s.setExcl e).spMain = s.spMain := rfl
@[simp] theorem State.setExcl_spProcess : (s.setExcl e).spProcess = s.spProcess := rfl
@[simp] theorem State.setExcl_lr : (s.setExcl e).lr = s.lr := rfl
@[simp] theorem State.setExcl_pc : (s.setExcl e).pc = s.pc := rfl
@[simp] theorem State.setExcl_psr : (s.setExcl e).psr = s.psr := rfl
@[simp] theorem State.setExcl_primask : (s.setExcl e).primask = s.primask := rfl
@[simp] theorem State.setExcl_faultmask : (s.setExcl e).faultmask = s.faultmask := rfl
@[simp] theorem State.setExcl_basepri : (s.setExcl e).basepri = s.basepri := rfl
@[simp] theorem State.setExcl_spsel : (s.setExcl e).spsel = s.spsel := rfl
@[simp] theorem State.setExcl_mode : (s.setExcl e).mode = s.mode := rfl
@[simp] theorem State.setExcl_itNew : (s.setExcl e).itNew = s.itNew := rfl
@[simp] theorem State.setExcl_nvic : (s.setExcl e).nvic = s.nvic := rfl
@[simp] theorem State.setExcl_excl : (s.setExcl e).excl = e := rfl
@[simp] theorem State.setExcl_mem : (s.setExcl e).mem = s.mem := rfl
@[simp] theorem State.setExcl_regions : (s.setExcl e).regions = s.regions := rfl
@[simp] theorem State.setExcl_params : (s.setExcl e).params = s.params := rfl
@[simp] theorem State.setExcl_halting : (s.setExcl e).halting = s.halting := rfl
@[simp] theorem State.setExcl_halted : (s.setExcl e).halted = s.halted := rfl
@[simp] theorem State.setExcl_log : (s.setExcl e).log = s.log := rfl
@[simp] theorem State.setExcl_freeIx : (s.setExcl e).freeIx = s.freeIx := rfl
end

section
variable (c : Nvic)
@[simp] theorem State.setNvic_gpr : (s.setNvic c).gpr = s.gpr := rfl
@[simp] theorem State.setNvic_spMain : (s.setNvic c).spMain = s.spMain := rfl
@[simp] theorem State.setNvic_spProcess : (s.setNvic c).spProcess = s.spProcess := rfl
@[simp] theorem State.setNvic_lr : (s.setNvic c).lr = s.lr := rfl
@[simp] theorem State.setNvic_pc : (s.setNvic c).pc = s.pc := rfl
@[simp] theorem State.setNvic_psr : (s.setNvic c).psr = s.psr := rfl
@[simp] theorem State.setNvic_primask : (s.setNvic c).primask = s.primask := rfl
@[simp] theorem State.setNvic_faultmask : (s.setNvic c).faultmask = s.faultmask := rfl
@[simp] theorem State.setNvic_basepri : (s.setNvic c).basepri = s.basepri := rfl
@[simp] theorem State.setNvic_spsel : (s.setNvic c).spsel = s.spsel := rfl
@[simp] theorem State.setNvic_mode : (s.setNvic c).mode = s.mode := rfl
@[simp] theorem State.setNvic_itNew : (s.setNvic c).itNew = s.itNew := rfl
@[simp] theorem State.setNvic_nvic : (s.setNvic c).nvic = c := rfl
@[simp] theorem State.setNvic_excl : (s.setNvic c).excl = s.excl := rfl
@[simp] theorem State.setNvic_mem : (s.setNvic c).mem = s.mem := rfl
@[simp] theorem State.setNvic_regions : (s.setNvic c).regions = s.regions := rfl
@[simp] theorem State.setNvic_params : (s.setNvic c).params = s.params := rfl
@[simp] theorem State.setNvic_halting : (s.setNvic c).halting = s.halting := rfl
@[simp] theorem State.setNvic_halted : (s.setNvic c).halted = s.halted := rfl
@[simp] theorem State.setNvic_log : (s.setNvic c).log = s.log := rfl
@[simp] theorem State.setNvic_freeIx : (s.setNvic c).freeIx = s.freeIx := rfl
end

section
variable (e : LogEvent)
@[simp] theorem State.emit_gpr : (s.emit e).gpr = s.gpr := rfl
@[simp] theorem State.emit_spMain : (s.emit e).spMain = s.spMain := rfl
@[simp] theorem State.emit_spProcess : (s.emit e).spProcess = s.spProcess := rfl
@[simp] theorem State.emit_lr : (s.emit e).lr = s.lr := rfl
@[simp] theorem State.emit_pc : (s.emit e).pc = s.pc := rfl
@[simp] theorem State.emit_psr : (s.emit e).psr = s.psr := rfl
@[simp] theorem State.emit_primask : (s.emit e).primask = s.primask := rfl
@[simp] theorem State.emit_faultmask : (s.emit e).faultmask = s.faultmask := rfl
@[simp] theorem State.emit_basepri : (s.emit e).basepri = s.basepri := rfl
@[simp] theorem State.emit_spsel : (s.emit e).spsel = s.spsel := rfl
@[simp] theorem State.emit_mode : (s.emit e).mode = s.mode := rfl
@[simp] theorem State.emit_itNew : (s.emit e).itNew = s.itNew := rfl
@[simp] theorem State.emit_nvic : (s.emit e).nvic = s.nvic := rfl
@[simp] theorem State.emit_excl : (s.emit e).excl = s.excl := rfl
@[simp] theorem State.emit_mem : (s.emit e).mem = s.mem := rfl
@[simp] theorem State.emit_regions : (s.emit e).regions = s.regions := rfl
@[simp] theorem State.emit_params : (s.emit e).params = s.params := rfl
@[simp] theorem State.emit_halting : (s.emit e).halting = s.halting := rfl
@[simp] theorem State.emit_halted : (s.emit e).halted = s.halted := rfl
@[simp] theorem State.emit_log : (s.emit e).log = e :: s.log := rfl
@[simp] theorem State.emit_freeIx : (s.emit e).freeIx = s.freeIx := rfl
end

section
@[simp] theorem State.draw_gpr : (s.draw).gpr = s.gpr := rfl
@[simp] theorem State.draw_spMain : (s.draw).spMain = s.spMain := rfl
@[simp] theorem State.draw_spProcess : (s.draw).spProcess = s.spProcess := rfl
@[simp] theorem State.draw_lr : (s.draw).lr = s.lr := rfl
@[simp] theorem State.draw_pc : (s.draw).pc = s.pc := rfl
@[simp] theorem State.draw_psr : (s.draw).psr = s.psr := rfl
@[simp] theorem State.draw_primask : (s.draw).primask = s.primask := rfl
@[simp] theorem State.draw_faultmask : (s.draw).faultmask = s.faultmask := rfl
@[simp] theorem State.draw_basepri : (s.draw).basepri = s.basepri := rfl
@[simp] theorem State.draw_spsel : (s.draw).spsel = s.spsel := rfl
@[simp] theorem State.draw_mode : (s.draw).mode = s.mode := rfl
@[simp] theorem State.draw_itNew : (s.draw).itNew = s.itNew := rfl
@[simp] theorem State.draw_nvic : (s.draw).nvic = s.nvic := rfl
@[simp] theorem State.draw_excl : (s.draw).excl = s.excl := rfl
@[simp] theorem State.draw_mem : (s.draw).mem = s.mem := rfl
@[simp] theorem State.draw_regions : (s.draw).regions = s.regions := rfl
@[simp] theorem State.draw_params : (s.draw).params = s.params := rfl
@[simp] theorem State.draw_halting : (s.draw).halting = s.halting := rfl
@[simp] theorem State.draw_halted : (s.draw).halted = s.halted := rfl
@[simp] theorem State.draw_log : (s.draw).log = s.log := rfl
@[simp] theorem State.draw_freeIx : (s.draw).freeIx = s.freeIx + 1 := rfl
end

section
@[simp] theorem State.halt_gpr : (s.halt).gpr = s.gpr := rfl
@[simp] theorem State.halt_spMain : (s.halt).spMain = s.spMain := rfl
@[simp] theorem State.halt_spProcess : (s.halt).spProcess = s.spProcess := rfl
@[simp] theorem State.halt_lr : (s.halt).lr = s.lr := rfl
@[simp] theorem State.halt_pc : (s.halt).pc = s.pc := rfl
@[simp] theorem State.halt_psr : (s.halt).psr = s.psr := rfl
@[simp] theorem State.halt_primask : (s.halt).primask = s.primask := rfl
@[simp] theorem State.halt_faultmask : (s.halt).faultmask = s.faultmask := rfl
@[simp] theorem State.halt_basepri : (s.halt).basepri = s.basepri := rfl
@[simp] theorem State.halt_spsel : (s.halt).spsel = s.spsel := rfl
@[simp] theorem State.halt_mode : (s.halt).mode = s.mode := rfl
@[simp] theorem State.halt_itNew : (s.halt).itNew = s.itNew := rfl
@[simp] theorem State.halt_nvic : (s.halt).nvic = s.nvic := rfl
@[simp] theorem State.halt_excl : (s.halt).excl = s.excl := rfl
@[simp] theorem State.halt_mem : (s.halt).mem = s.mem := rfl
@[simp] theorem State.halt_regions : (s.halt).regions = s.regions := rfl
@[simp] theorem State.halt_params : (s.halt).params = s.params := rfl
@[simp] theorem State.halt_halting : (s.halt).halting = s.halting := rfl
@[simp] theorem State.halt_halted : (s.halt).halted = true := rfl
@[simp] theorem State.halt_log : (s.halt).log = s.log := rfl
@[simp] theorem State.halt_freeIx : (s.halt).freeIx = s.freeIx := rfl
end

section
variable (n : Nat)
@[simp] theorem State.advance_gpr : (s.advance n).gpr = s.gpr := rfl
@[simp] theorem State.advance_spMain : (s.advance n).spMain = s.spMain := rfl
@[simp] theorem State.advance_spProcess : (s.advance n).spProcess = s.spProcess := rfl
@[simp] theorem State.advance_lr : (s.advance n).lr = s.lr := rfl
@[simp] theorem State.advance_pc : (s.advance n).pc = s.pc + BitVec.ofNat 32 n := rfl
@[simp] theorem State.advance_psr : (s.advance n).psr = s.psr := rfl
@[simp] theorem State.advance_primask : (s.advance n).primask = s.primask := rfl
@[simp] theorem State.advance_faultmask : (s.advance n).faultmask = s.faultmask := rfl
@[simp] theorem State.advance_basepri : (s.advance n).basepri = s.basepri := rfl
@[simp] theorem State.advance_spsel : (s.advance n).spsel = s.spsel := rfl
@[simp] theorem State.advance_mode : (s.advance n).mode = s.mode := rfl
@[simp] theorem State.advance_itNew : (s.advance n).itNew = false := rfl
@[simp] theorem State.advance_nvic : (s.advance n).nvic = s.nvic := rfl
@[simp] theorem State.advance_excl : (s.advance n).excl = s.excl := rfl
@[simp] theorem State.advance_mem : (s.advance n).mem = s.mem := rfl
@[simp] theorem State.advance_regions : (s.advance n).regions = s.regions := rfl
@[simp] theorem State.advance_params : (s.advance n).params = s.params := rfl
@[simp] theorem State.advance_halting : (s.advance n).halting = s.halting := rfl
@[simp] theorem State.advance_halted : (s.advance n).halted = s.halted := rfl
@[simp] theorem State.advance_log : (s.advance n).log = s.log := rfl
@[simp] theorem State.advance_freeIx : (s.advance n).freeIx = s.freeIx := rfl
end

section
variable (v : Word) (r : RegNum)
@[simp] theorem State.setSp_gpr : (s.setSp v).gpr = s.gpr := by unfold State.setSp; split <;> rfl
@[simp] theorem State.setSp_lr : (s.setSp v).lr = s.lr := by unfold State.setSp; split <;> rfl
@[simp] theorem State.setSp_pc : (s.setSp v).pc = s.pc := by unfold State.setSp; split <;> rfl
@[simp] theorem State.setSp_psr : (s.setSp v).psr = s.psr := by unfold State.setSp; split <;> rfl
@[simp] theorem State.setSp_primask : (s.setSp v).primask = s.primask := by unfold State.setSp; split <;> rfl
@[simp] theorem State.setSp_faultmask : (s.setSp v).faultmask = s.faultmask := by unfold State.setSp; split <;> rfl
@[simp] theorem State.setSp_basepri : (s.setSp v).basepri = s.basepri := by unfold State.setSp; split <;> rfl
@[simp] theorem State.setSp_spsel : (s.setSp v).spsel = s.spsel := by unfold State.setSp; split <;> rfl
@[simp] theorem State.setSp_mode : (s.setSp v).mode = s.mode := by unfold State.setSp; split <;> rfl
@[simp] theorem State.setSp_itNew : (s.setSp v).itNew = s.itNew := by unfold State.setSp; split <;> rfl
@[simp] theorem State.setSp_nvic : (s.setSp v).nvic = s.nvic := by unfold State.setSp; split <;> rfl
@[simp] theorem State.setSp_excl : (s.setSp v).excl = s.excl := by unfold State.setSp; split <;> rfl
@[simp] theorem State.setSp_mem : (s.setSp v).mem = s.mem := by unfold State.setSp; split <;> rfl
@[simp] theorem State.setSp_regions : (s.setSp v).regions = s.regions := by unfold State.setSp; split <;> rfl
@[simp] theorem State.setSp_params : (s.setSp v).params = s.params := by unfold State.setSp; split <;> rfl
@[simp] theorem State.setSp_halting : (s.setSp v).halting = s.halting := by unfold State.setSp; split <;> rfl
@[simp] theorem State.setSp_halted : (s.setSp v).halted = s.halted := by unfold State.setSp; split <;> rfl
@[simp] theorem State.setSp_log : (s.setSp v).log = s.log := by unfold State.setSp; split <;> rfl
@[simp] theorem State.setSp_freeIx : (s.setSp v).freeIx = s.freeIx := by unfold State.setSp; split <;> rfl
@[simp] theorem State.writeX_pc : (s.writeX r v).pc = s.pc := by
  unfold State.writeX; split <;> [rfl; (split <;> [simp; (split <;> rfl)])]
@[simp] theorem State.writeX_psr : (s.writeX r v).psr = s.psr := by
  unfold State.writeX; split <;> [rfl; (split <;> [simp; (split <;> rfl)])]
@[simp] theorem State.writeX_primask : (s.writeX r v).primask = s.primask := by
  unfold State.writeX; split <;> [rfl; (split <;> [simp; (split <;> rfl)])]
@[simp] theorem State.writeX_faultmask : (s.writeX r v).faultmask = s.faultmask := by
  unfold State.writeX; split <;> [rfl; (split <;> [simp; (split <;> rfl)])]
@[simp] theorem State.writeX_basepri : (s.writeX r v).basepri = s.basepri := by
  unfold State.writeX; split <;> [rfl; (split <;> [simp; (split <;> rfl)])]
@[simp] theorem State.writeX_spsel : (s.writeX r v).spsel = s.spsel := by
  unfold State.writeX; split <;> [rfl; (split <;> [simp; (split <;> rfl)])]
@[simp] theorem State.writeX_mode : (s.writeX r v).mode = s.mode := by
  unfold State.writeX; split <;> [rfl; (split <;> [simp; (split <;> rfl)])]
@[simp] theorem State.writeX_itNew : (s.writeX r v).itNew = s.itNew := by
  unfold State.writeX; split <;> [rfl; (split <;> [simp; (split <;> rfl)])]
@[simp] theorem State.writeX_nvic : (s.writeX r v).nvic = s.nvic := by
  unfold State.writeX; split <;> [rfl; (split <;> [simp; (split <;> rfl)])]
@[simp] theorem State.writeX_excl : (s.writeX r v).excl = s.excl := by
  unfold State.writeX; split <;> [rfl; (split <;> [simp; (split <;> rfl)])]
@[simp] theorem State.writeX_mem : (s.writeX r v).mem = s.mem := by
  unfold State.writeX; split <;> [rfl; (split <;> [simp; (split <;> rfl)])]
@[simp] theorem State.writeX_regions : (s.writeX r v).regions = s.regions := by
  unfold State.writeX; split <;> [rfl; (split <;> [simp; (split <;> rfl)])]
@[simp] theorem State.writeX_params : (s.writeX r v).params = s.params := by
  unfold State.writeX; split <;> [rfl; (split <;> [simp; (split <;> rfl)])]
@[simp] theorem State.writeX_halting : (s.writeX r v).halting = s.halting := by
  unfold State.writeX; split <;> [rfl; (split <;> [simp; (split <;> rfl)])]
@[simp] theorem State.writeX_halted : (s.writeX r v).halted = s.halted := by
  unfold State.writeX; split <;> [rfl; (split <;> [simp; (split <;> rfl)])]
@[simp] theorem State.writeX_log : (s.writeX r v).log = s.log := by
  unfold State.writeX; split <;> [rfl; (split <;> [simp; (split <;> rfl)])]
@[simp] theorem State.writeX_freeIx : (s.writeX r v).freeIx = s.freeIx := by
  unfold State.writeX; split <;> [rfl; (split <;> [simp; (split <;> rfl)])]
end

section
variable (b : Bool) (r : Word)
@[simp] theorem State.flagsNZ_gpr : (s.flagsNZ b r).gpr = s.gpr := by unfold State.flagsNZ; split <;> rfl
@[simp] theorem State.flagsNZ_spMain : (s.flagsNZ b r).spMain = s.spMain := by unfold State.flagsNZ; split <;> rfl
@[simp] theorem State.flagsNZ_spProcess : (s.flagsNZ b r).spProcess = s.spProcess := by unfold State.flagsNZ; split <;> rfl
@[simp] theorem State.flagsNZ_lr : (s.flagsNZ b r).lr = s.lr := by unfold State.flagsNZ; split <;> rfl
@[simp] theorem State.flagsNZ_pc : (s.flagsNZ b r).pc = s.pc := by unfold State.flagsNZ; split <;> rfl
@[simp] theorem State.flagsNZ_primask : (s.flagsNZ b r).primask = s.primask := by unfold State.flagsNZ; split <;> rfl
@[simp] theorem State.flagsNZ_faultmask : (s.flagsNZ b r).faultmask = s.faultmask := by unfold State.flagsNZ; split <;> rfl
@[simp] theorem State.flagsNZ_basepri : (s.flagsNZ b r).basepri = s.basepri := by unfold State.flagsNZ; split <;> rfl
@[simp] theorem State.flagsNZ_spsel : (s.flagsNZ b r).spsel = s.spsel := by unfold State.flagsNZ; split <;> rfl
@[simp] theorem State.flagsNZ_mode : (s.flagsNZ b r).mode = s.mode := by unfold State.flagsNZ; split <;> rfl
@[simp] theorem State.flagsNZ_itNew : (s.flagsNZ b r).itNew = s.itNew := by unfold State.flagsNZ; split <;> rfl
@[simp] theorem State.flagsNZ_nvic : (s.flagsNZ b r).nvic = s.nvic := by unfold State.flagsNZ; split <;> rfl
@[simp] theorem State.flagsNZ_excl : (s.flagsNZ b r).excl = s.excl := by unfold State.flagsNZ; split <;> rfl
@[simp] theorem State.flagsNZ_mem : (s.flagsNZ b r).mem = s.mem := by unfold State.flagsNZ; split <;> rfl
@[simp] theorem State.flagsNZ_regions : (s.flagsNZ b r).regions = s.regions := by unfold State.flagsNZ; split <;> rfl
@[simp] theorem State.flagsNZ_params : (s.flagsNZ b r).params = s.params := by unfold State.flagsNZ; split <;> rfl
@[simp] theorem State.flagsNZ_halting : (s.flagsNZ b r).halting = s.halting := by unfold State.flagsNZ; split <;> rfl
@[simp] theorem State.flagsNZ_halted : (s.flagsNZ b r).halted = s.halted := by unfold State.flagsNZ; split <;> rfl
@[simp] theorem State.flagsNZ_log : (s.flagsNZ b r).log = s.log := by unfold State.flagsNZ; split <;> rfl
@[simp] theorem State.flagsNZ_freeIx : (s.flagsNZ b r).freeIx = s.freeIx := by unfold State.flagsNZ; split <;> rfl
end

section
variable (b : Bool) (r : Word) (c : Bool)
@[simp] theorem State.flagsNZC_gpr : (s.flagsNZC b r c).gpr = s.gpr := by unfold State.flagsNZC; split <;> rfl
@[simp] theorem State.flagsNZC_spMain : (s.flagsNZC b r c).spMain = s.spMain := by unfold State.flagsNZC; split <;> rfl
@[simp] theorem State.flagsNZC_spProcess : (s.flagsNZC b r c).spProcess = s.spProcess := by unfold State.flagsNZC; split <;> rfl
@[simp] theorem State.flagsNZC_lr : (s.flagsNZC b r c).lr = s.lr := by unfold State.flagsNZC; split <;> rfl
@[simp] theorem State.flagsNZC_pc : (s.flagsNZC b r c).pc = s.pc := by unfold State.flagsNZC; split <;> rfl
@[simp] theorem State.flagsNZC_primask : (s.flagsNZC b r c).primask = s.primask := by unfold State.flagsNZC; split <;> rfl
@[simp] theorem State.flagsNZC_faultmask : (s.flagsNZC b r c).faultmask = s.faultmask := by unfold State.flagsNZC; split <;> rfl
@[simp] theorem State.flagsNZC_basepri : (s.flagsNZC b r c).basepri = s.basepri := by unfold State.flagsNZC; split <;> rfl
@[simp] theorem State.flagsNZC_spsel : (s.flagsNZC b r c).spsel = s.spsel := by unfold State.flagsNZC; split <;> rfl
@[simp] theorem State.flagsNZC_mode : (s.flagsNZC b r c).mode = s.mode := by unfold State.flagsNZC; split <;> rfl
@[simp] theorem State.flagsNZC_itNew : (s.flagsNZC b r c).itNew = s.itNew := by unfold State.flagsNZC; split <;> rfl
@[simp] theorem State.flagsNZC_nvic : (s.flagsNZC b r c).nvic = s.nvic := by unfold State.flagsNZC; split <;> rfl
@[simp] theorem State.flagsNZC_excl : (s.flagsNZC b r c).excl = s.excl := by unfold State.flagsNZC; split <;> rfl
@[simp] theorem State.flagsNZC_mem : (s.flagsNZC b r c).mem = s.mem := by unfold State.flagsNZC; split <;> rfl
@[simp] theorem State.flagsNZC_regions : (s.flagsNZC b r c).regions = s.regions := by unfold State.flagsNZC; split <;> rfl
@[simp] theorem State.flagsNZC_params : (s.flagsNZC b r c).params = s.params := by unfold State.flagsNZC; split <;> rfl
@[simp] theorem State.flagsNZC_halting : (s.flagsNZC b r c).halting = s.halting := by unfold State.flagsNZC; split <;> rfl
@[simp] theorem State.flagsNZC_halted : (s.flagsNZC b r c).halted = s.halted := by unfold State.flagsNZC; split <;> rfl
@[simp] theorem State.flagsNZC_log : (s.flagsNZC b r c).log = s.log := by unfold State.flagsNZC; split <;> rfl
@[simp] theorem State.flagsNZC_freeIx : (s.flagsNZC b r c).freeIx = s.freeIx := by unfold State.flagsNZC; split <;> rfl
end

section
variable (b : Bool) (a : AddResult)
@[simp] theorem State.flagsNZCV_gpr : (s.flagsNZCV b a).gpr = s.gpr := by unfold State.flagsNZCV; split <;> rfl
@[simp] theorem State.flagsNZCV_spMain : (s.flagsNZCV b a).spMain = s.spMain := by unfold State.flagsNZCV; split <;> rfl
@[simp] theorem State.flagsNZCV_spProcess : (s.flagsNZCV b a).spProcess = s.spProcess := by unfold State.flagsNZCV; split <;> rfl
@[simp] theorem State.flagsNZCV_lr : (s.flagsNZCV b a).lr = s.lr := by unfold State.flagsNZCV; split <;> rfl
@[simp] theorem State.flagsNZCV_pc : (s.flagsNZCV b a).pc = s.pc := by unfold State.flagsNZCV; split <;> rfl
@[simp] theorem State.flagsNZCV_primask : (s.flagsNZCV b a).primask = s.primask := by unfold State.flagsNZCV; split <;> rfl
@[simp] theorem State.flagsNZCV_faultmask : (s.flagsNZCV b a).faultmask = s.faultmask := by unfold State.flagsNZCV; split <;> rfl
@[simp] theorem State.flagsNZCV_basepri : (s.flagsNZCV b a).basepri = s.basepri := by unfold State.flagsNZCV; split <;> rfl
@[simp] theorem State.flagsNZCV_spsel : (s.flagsNZCV b a).spsel = s.spsel := by unfold State.flagsNZCV; split <;> rfl
@[simp] theorem State.flagsNZCV_mode : (s.flagsNZCV b a).mode = s.mode := by unfold State.flagsNZCV; split <;> rfl
@[simp] theorem State.flagsNZCV_itNew : (s.flagsNZCV b a).itNew = s.itNew := by unfold State.flagsNZCV; split <;> rfl
@[simp] theorem State.flagsNZCV_nvic : (s.flagsNZCV b a).nvic = s.nvic := by unfold State.flagsNZCV; split <;> rfl
@[simp] theorem State.flagsNZCV_excl : (s.flagsNZCV b a).excl = s.excl := by unfold State.flagsNZCV; split <;> rfl
@[simp] theorem State.flagsNZCV_mem : (s.flagsNZCV b a).mem = s.mem := by unfold State.flagsNZCV; split <;> rfl
@[simp] theorem State.flagsNZCV_regions : (s.flagsNZCV b a).regions = s.regions := by unfold State.flagsNZCV; split <;> rfl
@[simp] theorem State.flagsNZCV_params : (s.flagsNZCV b a).params = s.params := by unfold State.flagsNZCV; split <;> rfl
@[simp] theorem State.flagsNZCV_halting : (s.flagsNZCV b a).halting = s.halting := by unfold State.flagsNZCV; split <;> rfl
@[simp] theorem State.flagsNZCV_halted : (s.flagsNZCV b a).halted = s.halted := by unfold State.flagsNZCV; split <;> rfl
@[simp] theorem State.flagsNZCV_log : (s.flagsNZCV b a).log = s.log := by unfold State.flagsNZCV; split <;> rfl
@[simp] theorem State.flagsNZCV_freeIx : (s.flagsNZCV b a).freeIx = s.freeIx := by unfold State.flagsNZCV; split <;> rfl
end

/-- Register 13 is never the PC of `readX`. -/
theorem State.setSp_sp (v : Word) : (s.setSp v).sp = spMask v := by
  unfold State.sp State.setSp
  by_cases h : s.liveProcess
  · have : ({ s with spProcess := spMask v } : State).liveProcess = true := h
    simp [h, this]
  · have : ({ s with spMain := spMask v } : State).liveProcess = false :=
      (Bool.not_eq_true _).mp h
    simp [h, this]

/-- What a register write leaves in each register (R12, R24). -/
theorem State.readX_writeX (w : Bool) (r r' : RegNum) (v : Word) :
    (s.writeX r v).readX w r' =
      if r' = r ∧ r ≠ 15#4 then (if r = 13#4 then spMask v else v) else s.readX w r' := by
  have hsp : ∀ u, (s.setSp u).liveProcess = s.liveProcess := fun u => by simp [State.liveProcess]
  by_cases h13 : r = 13#4
  · subst h13
    by_cases e : r' = 13#4
    · subst e
      simp [State.writeX, State.readX, State.setSp_sp]
    · simp only [State.writeX, State.readX, e]
      simp
  · by_cases h14 : r = 14#4
    · subst h14
      by_cases e : r' = 14#4
      · subst e
        simp [State.writeX, State.readX]
      · simp [State.writeX, State.readX, e, State.sp, State.liveProcess]
    · by_cases h15 : r = 15#4
      · subst h15
        simp [State.writeX]
      · have hlt : r.toNat < 13 := by
          have h1 : r.toNat ≠ 13 := fun h => h13 (BitVec.eq_of_toNat_eq h)
          have h2 : r.toNat ≠ 14 := fun h => h14 (BitVec.eq_of_toNat_eq h)
          have h3 : r.toNat ≠ 15 := fun h => h15 (BitVec.eq_of_toNat_eq h)
          have := r.isLt
          omega
        have hw : s.writeX r v = s.setGpr (s.gpr.set r.toNat v) := by simp [State.writeX, hlt]
        rw [hw]
        by_cases e : r' = r
        · subst e
          simp [State.readX, hlt, h13, h15]
        · have ne : r.toNat ≠ r'.toNat := fun h => e (BitVec.eq_of_toNat_eq h.symm)
          simp only [e, false_and, if_false, State.readX]
          split
          · simp [ne]
          · simp [State.sp, State.liveProcess]

/-- A register write reaches the general registers below 13 only. -/
theorem lo_toNat (r : LowReg) : (lo r).toNat = r.toNat := by
  have := r.isLt
  simp only [lo, BitVec.toNat_setWidth]
  omega

/-- A low register is none of SP, LR, PC (R21). -/
theorem lo_ne (r : LowReg) : lo r ≠ 13#4 ∧ lo r ≠ 14#4 ∧ lo r ≠ 15#4 := by
  revert r
  decide

end Sys2Proof.Machine
end

