-- ==== Sys2Proof/Laws/Ops.lean ====
section
/-! SUPPORT. One lemma per shared operation that says what it can do, to be cited instead of unfolding it. -/

namespace Sys2Proof.Machine

/-! ### The port -/

/-- The state after an admitted read: only a device's answer counts a draw. -/
def State.afterRead (s : State) (a : Word) (sz : Size) : State := if s.isDevice a sz then s.draw else s

/-- The state after an admitted write. -/
def State.afterWrite (s : State) (a : Word) (sz : Size) (v : Word) : State :=
  if s.isDevice a sz then s else s.setMem (s.mem.writeLE a.toNat v sz.bytes)

/-- MEM.read, in full (R61). -/
theorem portRead_eq (s : State) (a : Word) (sz : Size) :
    s.portRead a sz = if s.readable a sz then some (s.readValue a sz, s.afterRead a sz) else none := by
  unfold State.portRead State.readable State.readValue State.afterRead State.isDevice
  cases findRegion s.regions a.toNat sz.bytes with
  | none => rfl
  | some r => cases h : r.kind.isDevice <;> cases h' : r.readable <;> simp [h, h']

/-- MEM.write, in full (R61). -/
theorem portWrite_eq (s : State) (a : Word) (sz : Size) (v : Word) :
    s.portWrite a sz v = if s.writable a sz then some (s.afterWrite a sz v) else none := by
  unfold State.portWrite State.writable State.afterWrite State.isDevice
  cases findRegion s.regions a.toNat sz.bytes with
  | none => rfl
  | some r => cases h : r.kind.isDevice <;> cases h' : r.writable <;> simp [h, h']

/-- R64: an unaligned-tolerant read, in full. -/
theorem loadU_eq (s : State) (a : Word) (sz : Size) :
    s.loadU a sz =
      if s.readable a sz then .ok (s.readValue a sz) (s.afterRead a sz) else .failed (s.emit (.accessFailed a)) := by
  unfold State.loadU
  rw [portRead_eq]
  by_cases h : s.readable a sz <;> simp [h]

/-- R64: an unaligned-tolerant write, in full. -/
theorem storeU_eq (s : State) (a : Word) (sz : Size) (v : Word) :
    s.storeU a sz v =
      if s.writable a sz then .ok () (s.afterWrite a sz v) else .failed (s.emit (.accessFailed a)) := by
  unfold State.storeU
  rw [portWrite_eq]
  by_cases h : s.writable a sz <;> simp [h]

/-- R65: an aligned read, in full. -/
theorem loadA_eq (s : State) (a : Word) (sz : Size) :
    s.loadA a sz =
      if aligned a sz then
        (if s.readable a sz then .ok (s.readValue a sz) (s.afterRead a sz) else .failed (s.emit (.accessFailed a)))
      else .failed (s.rejectMisaligned a) := by
  unfold State.loadA
  rw [loadU_eq]

/-- R65: an aligned write, in full. -/
theorem storeA_eq (s : State) (a : Word) (sz : Size) (v : Word) :
    s.storeA a sz v =
      if aligned a sz then
        (if s.writable a sz then .ok () (s.afterWrite a sz v) else .failed (s.emit (.accessFailed a)))
      else .failed (s.rejectMisaligned a) := by
  unfold State.storeA
  rw [storeU_eq]

/-- An admitted access lies below 2^32 (assumption log 3). -/
theorem findRegion_bound {rs : List Region} {a n : Nat} {r : Region} (h : findRegion rs a n = some r) :
    a + n ≤ 2 ^ 32 := by
  have := List.find?_some h
  simp only [Region.holds, Bool.and_eq_true, decide_eq_true_eq] at this
  exact this.2

/-- An admitted write keeps the memory's canonical form. -/
theorem afterWrite_wf {s : State} {a : Word} {sz : Size} {v : Word} (hw : s.writable a sz = true)
    (hm : s.mem.wf = true) : (s.afterWrite a sz v).mem.wf = true := by
  unfold State.afterWrite
  split
  · exact hm
  · unfold State.writable at hw
    cases h : findRegion s.regions a.toNat sz.bytes with
    | none => simp [h] at hw
    | some r => exact Memory.wf_writeLE hm (findRegion_bound h)

/-- An admitted store leaves in memory what `StoredAt` says. -/
theorem afterWrite_storedAt (s : State) (a : Word) (sz : Size) (v : Word) :
    StoredAt s (s.afterWrite a sz v) a sz v := by
  unfold StoredAt SameMemoryOutside SameMemory State.afterWrite
  cases s.isDevice a sz with
  | true => simp
  | false =>
    simp only [Bool.false_eq_true, if_false, State.setMem_mem]
    refine ⟨fun b hb => by rw [Memory.readByte_writeLE, if_neg hb], fun k hk => ?_⟩
    rw [Memory.readByte_writeLE, if_pos (by omega), Nat.add_sub_cancel_left]

/-! ### Word sequences -/

/-- A draw changes no register. -/
@[simp] theorem draw_x32 (s : State) (r : RegNum) : s.draw.x32 r = s.x32 r := rfl

/-- A memory update changes no register. -/
@[simp] theorem setMem_x32 (s : State) (m : Memory) (r : RegNum) : (s.setMem m).x32 r = s.x32 r := rfl

/-- The next word of an aligned sequence is aligned. -/
theorem aligned_add_four {a : Word} (h : aligned a .word = true) : aligned (a + 4) .word = true := by
  have e : (a + 4).toNat = (a.toNat + 4) % 2 ^ 32 := by simp [BitVec.toNat_add]
  simp only [aligned, Size.bytes, beq_iff_eq] at h ⊢
  omega

/-- The words of a sequence after its first. -/
theorem wordAt_succ (a : Word) (j : Nat) : wordAt (a + 4) j = wordAt a (j + 1) := by
  simp only [wordAt]
  have : BitVec.ofNat 32 (4 * (j + 1)) = 4 + BitVec.ofNat 32 (4 * j) := by
    apply BitVec.eq_of_toNat_eq
    have e4 : (4 : Word).toNat = 4 := rfl
    simp only [BitVec.toNat_add, BitVec.toNat_ofNat, e4]
    omega
  rw [this, BitVec.add_assoc]

/-- The first word of a sequence. -/
@[simp] theorem wordAt_zero (a : Word) : wordAt a 0 = a := by simp [wordAt]

/-- Word loads from readable, aligned addresses all succeed, and change nothing but the count of draws (R63, R67). -/
theorem loadRegs_ok (regs : List RegNum) (s : State) (a : Word) (ha : aligned a .word = true)
    (hr : s.wordsReadable a regs.length) :
    ∃ vs ix, s.loadRegs a regs = .ok vs { s with freeIx := ix } ∧ vs.map Prod.fst = regs ∧
      (s.wordsPlain a regs.length →
        ∀ (j : Nat) (r : RegNum) (v : Word), vs[j]? = some (r, v) → v = s.mem.readLE (wordAt a j).toNat 4) := by
  induction regs generalizing s a with
  | nil => exact ⟨[], s.freeIx, rfl, rfl, fun _ j r v h => by simp at h⟩
  | cons r rest ih =>
    have h0 : s.readable a .word = true := by simpa using hr 0 (by simp)
    obtain ⟨ix1, e1⟩ : ∃ ix1, s.afterRead a .word = { s with freeIx := ix1 } := by
      unfold State.afterRead
      split
      · exact ⟨s.freeIx + 1, rfl⟩
      · exact ⟨s.freeIx, rfl⟩
    obtain ⟨vs, ix, e, hm, hv⟩ := ih ({ s with freeIx := ix1 }) (a + 4) (aligned_add_four ha) (fun j hj => by
      rw [wordAt_succ]
      exact hr (j + 1) (by simp; omega))
    refine ⟨(r, s.readValue a .word) :: vs, ix, ?_, by simp [hm], ?_⟩
    · simp only [State.loadRegs, loadA_eq, ha, h0, if_true, Access.bind, e1, e]
    · intro hp j r' v hj
      cases j with
      | zero =>
        have hd : s.isDevice a .word = false := by simpa using hp 0 (by simp)
        simp only [List.getElem?_cons_zero, Option.some.injEq, Prod.mk.injEq] at hj
        rw [← hj.2]
        simp [State.readValue, hd, Size.bytes]
      | succ j =>
        simp only [List.getElem?_cons_succ] at hj
        have := hv (fun i hi => by
          rw [wordAt_succ]
          exact hp (i + 1) (by simp; omega)) j r' v hj
        rw [this, wordAt_succ]

/-- Word loads from readable, aligned addresses all succeed (the form of LDRD and of the exception frame). -/
theorem loadWords_ok (n : Nat) (s : State) (a : Word) (ha : aligned a .word = true) (hr : s.wordsReadable a n) :
    ∃ vs ix, s.loadWords a n = .ok vs { s with freeIx := ix } ∧ vs.length = n ∧
      (s.wordsPlain a n →
        ∀ (j : Nat) (v : Word), vs[j]? = some v → v = s.mem.readLE (wordAt a j).toNat 4) := by
  induction n generalizing s a with
  | zero => exact ⟨[], s.freeIx, rfl, rfl, fun _ j v h => by simp at h⟩
  | succ n ih =>
    have h0 : s.readable a .word = true := by simpa using hr 0 (by simp)
    obtain ⟨ix1, e1⟩ : ∃ ix1, s.afterRead a .word = { s with freeIx := ix1 } := by
      unfold State.afterRead
      split
      · exact ⟨s.freeIx + 1, rfl⟩
      · exact ⟨s.freeIx, rfl⟩
    obtain ⟨vs, ix, e, hm, hv⟩ := ih ({ s with freeIx := ix1 }) (a + 4) (aligned_add_four ha) (fun j hj => by
      rw [wordAt_succ]
      exact hr (j + 1) (by omega))
    refine ⟨s.readValue a .word :: vs, ix, ?_, by simp [hm], ?_⟩
    · simp only [State.loadWords, loadA_eq, ha, h0, if_true, Access.bind, e1, e]
    · intro hp j v hj
      cases j with
      | zero =>
        have hd : s.isDevice a .word = false := by simpa using hp 0 (by simp)
        simp only [List.getElem?_cons_zero, Option.some.injEq] at hj
        rw [← hj]
        simp [State.readValue, hd, Size.bytes]
      | succ j =>
        simp only [List.getElem?_cons_succ] at hj
        have := hv (fun i hi => by
          rw [wordAt_succ]
          exact hp (i + 1) (by omega)) j v hj
        rw [this, wordAt_succ]

/-- A sequence of loads changes nothing but the count of draws and, where it fails, the LOG. -/
theorem loadRegs_state (regs : List RegNum) (s : State) (a : Word) :
    match s.loadRegs a regs with
    | .ok vs s' => vs.map Prod.fst = regs ∧ ∃ ix, s' = { s with freeIx := ix }
    | .failed s' => ∃ ix l, s' = { s with freeIx := ix, log := l } := by
  induction regs generalizing s a with
  | nil => exact ⟨rfl, s.freeIx, rfl⟩
  | cons r rest ih =>
    simp only [State.loadRegs, loadA_eq]
    split
    · rename_i vs s' h
      split at h
      · split at h
        · obtain ⟨ix1, e1⟩ : ∃ ix1, s.afterRead a .word = { s with freeIx := ix1 } := by
            unfold State.afterRead
            split
            · exact ⟨s.freeIx + 1, rfl⟩
            · exact ⟨s.freeIx, rfl⟩
          rw [e1] at h
          have := ih { s with freeIx := ix1 } (a + 4)
          simp only [Access.bind] at h
          split at h
          · rename_i vs1 s1 e
            rw [e] at this
            obtain ⟨hm, ix, e2⟩ := this
            cases h
            exact ⟨by simp [hm], ix, by rw [e2]⟩
          · cases h
        · cases h
      · cases h
    · rename_i s' h
      split at h
      · split at h
        · obtain ⟨ix1, e1⟩ : ∃ ix1, s.afterRead a .word = { s with freeIx := ix1 } := by
            unfold State.afterRead
            split
            · exact ⟨s.freeIx + 1, rfl⟩
            · exact ⟨s.freeIx, rfl⟩
          rw [e1] at h
          have := ih { s with freeIx := ix1 } (a + 4)
          simp only [Access.bind] at h
          split at h
          · cases h
          · rename_i s1 e
            rw [e] at this
            obtain ⟨ix, l, e2⟩ := this
            cases h
            exact ⟨ix, l, by rw [e2]⟩
        · cases h
          exact ⟨s.freeIx, _, rfl⟩
      · cases h
        exact ⟨s.freeIx, _, rfl⟩

/-- A sequence of stores changes nothing but memory and, where it fails, the LOG; it keeps the canonical form. -/
theorem storeWords_state (ws : List Word) (s : State) (a : Word) (hm : s.mem.wf = true) :
    match s.storeWords a ws with
    | .ok _ s' => ∃ m, m.wf = true ∧ s' = s.setMem m
    | .failed s' => ∃ m l, m.wf = true ∧ s' = { s with mem := m, log := l } := by
  induction ws generalizing s a with
  | nil => exact ⟨s.mem, hm, rfl⟩
  | cons w rest ih =>
    simp only [State.storeWords, storeA_eq]
    by_cases ha : aligned a .word = true
    · by_cases hw : s.writable a .word = true
      · obtain ⟨m1, hm1, e1⟩ : ∃ m1, m1.wf = true ∧ s.afterWrite a .word w = s.setMem m1 := by
          refine ⟨(s.afterWrite a .word w).mem, afterWrite_wf hw hm, ?_⟩
          unfold State.afterWrite
          split <;> rfl
        have := ih (s.setMem m1) (a + 4) hm1
        simp only [ha, hw, if_true, Access.bind, e1]
        split
        · rename_i u s' e
          rw [e] at this
          obtain ⟨m, h1, h2⟩ := this
          exact ⟨m, h1, by rw [h2]; rfl⟩
        · rename_i s' e
          rw [e] at this
          obtain ⟨m, l, h1, h2⟩ := this
          exact ⟨m, l, h1, by rw [h2]; rfl⟩
      · simp only [ha, hw, Bool.false_eq_true, if_true, if_false, Access.bind]
        exact ⟨s.mem, _, hm, rfl⟩
    · simp only [ha, Bool.false_eq_true, if_false, Access.bind]
      exact ⟨s.mem, _, hm, rfl⟩

/-! ### The monitor -/

/-- The members of a set with one more record. -/
theorem mem_insertExcl {e f : ExclRecord} {l : List ExclRecord} : f ∈ insertExcl e l ↔ f = e ∨ f ∈ l := by
  induction l with
  | nil => simp [insertExcl]
  | cons g rest ih =>
    unfold insertExcl
    split
    · subst_vars
      simp
    · split
      · simp
      · simp [ih]
        tauto

/-- R74, R75: a reservation just made is found. -/
theorem exclusiveHit_setExclusive (s : State) (a : Word) (sz : Size) :
    (s.setExclusive a sz).exclusiveHit a sz = true := by
  simp [State.exclusiveHit, State.setExclusive, mem_insertExcl]

/-- R75: after the check no record overlaps the range. -/
theorem consumeExclusive_none (s : State) (a : Word) (sz : Size) :
    ∀ e ∈ (s.consumeExclusive a sz).excl, e.overlaps a.toNat sz.bytes = false := by
  intro e he
  simpa using (List.mem_filter.mp he).2

/-- A record overlaps its own range. -/
theorem exclRecord_overlaps (a : Word) (sz : Size) : (exclRecord a sz).overlaps a.toNat sz.bytes = true := by
  cases sz <;> simp [ExclRecord.overlaps, exclRecord, Size.bytes]

/-! ### The pending store -/

/-- The keys after an insertion. -/
theorem mem_insertKey {k j : PendingKey} {l : List PendingKey} : j ∈ insertKey k l ↔ j = k ∨ j ∈ l := by
  induction l with
  | nil => simp [insertKey]
  | cons g rest ih =>
    unfold insertKey
    split
    · simp
    · simp [ih]
      tauto

/-- An insertion adds one key. -/
theorem length_insertKey (k : PendingKey) (l : List PendingKey) : (insertKey k l).length = l.length + 1 := by
  induction l with
  | nil => rfl
  | cons g rest ih =>
    unfold insertKey
    split <;> simp [ih]

/-- An insertion keeps the key order. -/
theorem pairwise_insertKey (k : PendingKey) {l : List PendingKey} (h : l.Pairwise (fun i j => i.packed ≤ j.packed)) :
    (insertKey k l).Pairwise (fun i j => i.packed ≤ j.packed) := by
  induction l with
  | nil => simp [insertKey]
  | cons g rest ih =>
    have h' := List.pairwise_cons.mp h
    unfold insertKey
    split
    · refine List.pairwise_cons.mpr ⟨fun j hj => ?_, h⟩
      rcases List.mem_cons.mp hj with rfl | hj
      · assumption
      · exact Int.le_trans ‹_› (h'.1 j hj)
    · refine List.pairwise_cons.mpr ⟨fun j hj => ?_, ih h'.2⟩
      rcases mem_insertKey.mp hj with rfl | hj
      · omega
      · exact h'.1 j hj

/-- R333: a key that may be taken is pending and of minimal group priority. -/
theorem mem_topKeys {k : PendingKey} {ks : List PendingKey} : k ∈ topKeys ks ↔ k ∈ ks ∧ ∀ j ∈ ks, k.gp ≤ j.gp := by
  simp [topKeys]

/-- The picked key is one of those offered. -/
theorem pickKey_mem {i : Nat} {k : PendingKey} {ks : List PendingKey} (h : pickKey i ks = some k) : k ∈ ks := by
  unfold pickKey at h
  split at h
  · cases h
  · cases h
    simp
  · exact List.mem_of_getElem? h

/-- R333: what `Top(Pending)` answers is pending. -/
theorem topPending_mem {s : State} {k : PendingKey} (h : s.topPending = some k) : k ∈ s.nvic.pending := by
  unfold State.topPending at h
  split at h
  · have := List.mem_of_mem_head? h
    simp only [lowestKeys, List.mem_filter] at this
    exact this.1
  · exact (mem_topKeys.mp (pickKey_mem h)).1

/-- R332: what `check_exception` takes was pending; it leaves the state with that key removed and one more draw. -/
theorem checkException_cases {s t : State} {v : Nat} (h : s.checkException = some (v, t)) :
    ∃ k ∈ s.nvic.pending, k.vector = v ∧ s.preempts k.gp = true ∧
      t = (s.setNvic { s.nvic with pending := s.nvic.pending.erase k }).draw := by
  unfold State.checkException at h
  split at h
  · cases h
  · rename_i k hk
    split at h
    · cases h
      exact ⟨k, topPending_mem hk, rfl, ‹_›, rfl⟩
    · cases h

/-! ### The prologue and the PC writes -/

/-- R98: where an instruction's condition passes and no UNPREDICTABLE condition holds, its body runs. -/
theorem guarded_run {i : Instr} {u : Bool} {s : State} {body : State → Result} (hu : u = false)
    (hc : s.psr.conditionPassed = true) : guarded i u s body = body s := by
  simp [guarded, prologue, hu, hc]

/-- R97, R98: an UNPREDICTABLE condition makes the instruction a logged no-op. -/
theorem guarded_unpredictable {i : Instr} {u : Bool} {s : State} {body : State → Result} (hu : u = true) :
    guarded i u s body = .next (s.unpredictableNop i) := by
  simp [guarded, prologue, hu]

/-- R98: an instruction without an UNPREDICTABLE list runs where its condition passes. -/
theorem conditional_run {s : State} {body : State → Result} (hc : s.psr.conditionPassed = true) :
    conditional s body = body s := by
  simp [conditional, hc]

/-- R146: outside an exception return, `BXWritePC` writes the PC and T. -/
theorem bxWritePC_branch {s : State} {a : Word} (h : s.isExceptionReturn a = false) :
    s.bxWritePC a = .next ((s.setPsr { s.psr with t := a.getLsbD 0 }).setPc (clearBit0 a)) := by
  simp [State.bxWritePC, h]

/-- R146: in Thread mode no value is an exception return. -/
theorem isExceptionReturn_thread {s : State} (a : Word) (h : s.mode = .thread) : s.isExceptionReturn a = false := by
  simp [State.isExceptionReturn, h]

/-- R334: taking an exception ends in the handler or in one of two faults. -/
theorem takeException_next {s t : State} {v : Nat} (h : s.takeException v = .next t) :
    s.nvic.activeStack.length < s.params.nvec ∧
      ∃ u s', s.storeWords (framePointer s.sp) s.frameWords = .ok u s' ∧
        t = s.enterHandler (s'.setSp (framePointer s.sp)) v := by
  unfold State.takeException at h
  split at h
  · cases h
  · split at h
    · cases h
    · rename_i u s' e
      cases h
      exact ⟨Nat.lt_of_not_le ‹_›, u, s', e, rfl⟩

/-- R340, R341: a return either fails before the pop, and UsageFault is thrown, or pops the frame of a validated
exception. -/
theorem exceptionReturn_next {s t : State} {a : Word} (h : s.exceptionReturn a = .next t) :
    (s.validateReturn a = none ∧ t = s.throwException Config.usageFault) ∨
      ∃ target process r ws s', s.validateReturn a = some (target, process, r) ∧
        s.loadWords (s.bankSp process) 8 = .ok ws s' ∧
        t = (s'.restoreFrame target process r (s.bankSp process) ws).postPopCheck := by
  unfold State.exceptionReturn at h
  split at h
  · cases h
    exact .inl ⟨‹_›, rfl⟩
  · rename_i target process r hv
    split at h
    · cases h
    · rename_i ws s' e
      cases h
      exact .inr ⟨target, process, r, ws, s', hv, e, rfl⟩

end Sys2Proof.Machine
end

