-- ==== Sys2Proof/Laws/PerInstr.lean ====
section
/-! SUPPORT. Statements proved once for each constructor of Instr. -/

namespace Sys2Proof.Laws.EncodedLength

/-- R90: a well-formed instruction is one halfword without a 32-bit prefix, or two halfwords the first of which has
one. -/
def Statement (i : Instr) : Prop :=
  i.wellFormed = true →
    (∃ hw1, encode i = [hw1] ∧ is32BitPrefix hw1 = false) ∨
      ∃ hw1 hw2, encode i = [hw1, hw2] ∧ is32BitPrefix hw1 = true

theorem lslImm : ∀ imm5 rm rd, Statement (.lslImm imm5 rm rd) :=
  fun imm5 rm rd => fun _ => Or.inl ⟨_, rfl, by
    simp only [prefix32_eq, BitVec.getLsbD_append (m := 3), BitVec.getLsbD_append (m := 5)]
    simp⟩

theorem movsReg : ∀ rm rd, Statement (.movsReg rm rd) :=
  fun rm rd => fun _ => Or.inl ⟨_, rfl, by simp only [prefix32_eq, BitVec.getLsbD_append (m := 3)]; simp⟩

theorem lsrImm : ∀ imm5 rm rd, Statement (.lsrImm imm5 rm rd) :=
  fun imm5 rm rd => fun _ => Or.inl ⟨_, rfl, by
    simp only [prefix32_eq, BitVec.getLsbD_append (m := 3), BitVec.getLsbD_append (m := 5)]
    simp⟩

theorem asrImm : ∀ imm5 rm rd, Statement (.asrImm imm5 rm rd) :=
  fun imm5 rm rd => fun _ => Or.inl ⟨_, rfl, by
    simp only [prefix32_eq, BitVec.getLsbD_append (m := 3), BitVec.getLsbD_append (m := 5)]
    simp⟩

theorem addReg : ∀ rm rn rd, Statement (.addReg rm rn rd) :=
  fun rm rn rd => fun _ => Or.inl ⟨_, rfl, by simp only [prefix32_eq, BitVec.getLsbD_append (m := 3)]; simp⟩

theorem subReg : ∀ rm rn rd, Statement (.subReg rm rn rd) :=
  fun rm rn rd => fun _ => Or.inl ⟨_, rfl, by simp only [prefix32_eq, BitVec.getLsbD_append (m := 3)]; simp⟩

theorem addImm3 : ∀ imm3 rn rd, Statement (.addImm3 imm3 rn rd) :=
  fun imm3 rn rd => fun _ => Or.inl ⟨_, rfl, by simp only [prefix32_eq, BitVec.getLsbD_append (m := 3)]; simp⟩

theorem subImm3 : ∀ imm3 rn rd, Statement (.subImm3 imm3 rn rd) :=
  fun imm3 rn rd => fun _ => Or.inl ⟨_, rfl, by simp only [prefix32_eq, BitVec.getLsbD_append (m := 3)]; simp⟩

theorem movImm : ∀ rd imm8, Statement (.movImm rd imm8) :=
  fun rd imm8 => fun _ => Or.inl ⟨_, rfl, by
    simp only [prefix32_eq, BitVec.getLsbD_append (m := 3), BitVec.getLsbD_append (m := 8)]
    simp⟩

theorem cmpImm : ∀ rn imm8, Statement (.cmpImm rn imm8) :=
  fun rn imm8 => fun _ => Or.inl ⟨_, rfl, by
    simp only [prefix32_eq, BitVec.getLsbD_append (m := 3), BitVec.getLsbD_append (m := 8)]
    simp⟩

theorem addImm8 : ∀ rdn imm8, Statement (.addImm8 rdn imm8) :=
  fun rdn imm8 => fun _ => Or.inl ⟨_, rfl, by
    simp only [prefix32_eq, BitVec.getLsbD_append (m := 3), BitVec.getLsbD_append (m := 8)]
    simp⟩

theorem subImm8 : ∀ rdn imm8, Statement (.subImm8 rdn imm8) :=
  fun rdn imm8 => fun _ => Or.inl ⟨_, rfl, by
    simp only [prefix32_eq, BitVec.getLsbD_append (m := 3), BitVec.getLsbD_append (m := 8)]
    simp⟩

theorem andReg : ∀ rm rdn, Statement (.andReg rm rdn) :=
  fun rm rdn => fun _ => Or.inl ⟨_, rfl, by simp only [prefix32_eq, BitVec.getLsbD_append (m := 3)]; simp⟩

theorem eorReg : ∀ rm rdn, Statement (.eorReg rm rdn) :=
  fun rm rdn => fun _ => Or.inl ⟨_, rfl, by simp only [prefix32_eq, BitVec.getLsbD_append (m := 3)]; simp⟩

theorem lslReg : ∀ rm rdn, Statement (.lslReg rm rdn) :=
  fun rm rdn => fun _ => Or.inl ⟨_, rfl, by simp only [prefix32_eq, BitVec.getLsbD_append (m := 3)]; simp⟩

theorem lsrReg : ∀ rm rdn, Statement (.lsrReg rm rdn) :=
  fun rm rdn => fun _ => Or.inl ⟨_, rfl, by simp only [prefix32_eq, BitVec.getLsbD_append (m := 3)]; simp⟩

theorem asrReg : ∀ rm rdn, Statement (.asrReg rm rdn) :=
  fun rm rdn => fun _ => Or.inl ⟨_, rfl, by simp only [prefix32_eq, BitVec.getLsbD_append (m := 3)]; simp⟩

theorem adcReg : ∀ rm rdn, Statement (.adcReg rm rdn) :=
  fun rm rdn => fun _ => Or.inl ⟨_, rfl, by simp only [prefix32_eq, BitVec.getLsbD_append (m := 3)]; simp⟩

theorem sbcReg : ∀ rm rdn, Statement (.sbcReg rm rdn) :=
  fun rm rdn => fun _ => Or.inl ⟨_, rfl, by simp only [prefix32_eq, BitVec.getLsbD_append (m := 3)]; simp⟩

theorem rorReg : ∀ rm rdn, Statement (.rorReg rm rdn) :=
  fun rm rdn => fun _ => Or.inl ⟨_, rfl, by simp only [prefix32_eq, BitVec.getLsbD_append (m := 3)]; simp⟩

theorem tstReg : ∀ rm rn, Statement (.tstReg rm rn) :=
  fun rm rn => fun _ => Or.inl ⟨_, rfl, by simp only [prefix32_eq, BitVec.getLsbD_append (m := 3)]; simp⟩

theorem rsbImm0 : ∀ rn rd, Statement (.rsbImm0 rn rd) :=
  fun rn rd => fun _ => Or.inl ⟨_, rfl, by simp only [prefix32_eq, BitVec.getLsbD_append (m := 3)]; simp⟩

theorem cmpReg : ∀ rm rn, Statement (.cmpReg rm rn) :=
  fun rm rn => fun _ => Or.inl ⟨_, rfl, by simp only [prefix32_eq, BitVec.getLsbD_append (m := 3)]; simp⟩

theorem cmnReg : ∀ rm rn, Statement (.cmnReg rm rn) :=
  fun rm rn => fun _ => Or.inl ⟨_, rfl, by simp only [prefix32_eq, BitVec.getLsbD_append (m := 3)]; simp⟩

theorem orrReg : ∀ rm rdn, Statement (.orrReg rm rdn) :=
  fun rm rdn => fun _ => Or.inl ⟨_, rfl, by simp only [prefix32_eq, BitVec.getLsbD_append (m := 3)]; simp⟩

theorem mulReg : ∀ rn rdm, Statement (.mulReg rn rdm) :=
  fun rn rdm => fun _ => Or.inl ⟨_, rfl, by simp only [prefix32_eq, BitVec.getLsbD_append (m := 3)]; simp⟩

theorem bicReg : ∀ rm rdn, Statement (.bicReg rm rdn) :=
  fun rm rdn => fun _ => Or.inl ⟨_, rfl, by simp only [prefix32_eq, BitVec.getLsbD_append (m := 3)]; simp⟩

theorem mvnReg : ∀ rm rd, Statement (.mvnReg rm rd) :=
  fun rm rd => fun _ => Or.inl ⟨_, rfl, by simp only [prefix32_eq, BitVec.getLsbD_append (m := 3)]; simp⟩

theorem addHi : ∀ rm rdn, Statement (.addHi rm rdn) :=
  fun rm rdn => fun _ => Or.inl ⟨_, rfl, by
    simp only [prefix32_eq, BitVec.getLsbD_append (m := 1), BitVec.getLsbD_append (m := 3), BitVec.getLsbD_append (m := 4)]
    simp⟩

theorem unpredCmpLowLow : ∀ low6, Statement (.unpredCmpLowLow low6) :=
  fun low6 => fun _ => Or.inl ⟨_, rfl, by simp only [prefix32_eq, BitVec.getLsbD_append (m := 6)]; simp⟩

theorem cmpHi : ∀ rm rn, Statement (.cmpHi rm rn) :=
  fun rm rn => fun _ => Or.inl ⟨_, rfl, by
    simp only [prefix32_eq, BitVec.getLsbD_append (m := 1), BitVec.getLsbD_append (m := 3), BitVec.getLsbD_append (m := 4)]
    simp⟩

theorem movHi : ∀ rm rd, Statement (.movHi rm rd) :=
  fun rm rd => fun _ => Or.inl ⟨_, rfl, by
    simp only [prefix32_eq, BitVec.getLsbD_append (m := 1), BitVec.getLsbD_append (m := 3), BitVec.getLsbD_append (m := 4)]
    simp⟩

theorem bx : ∀ rm sb, Statement (.bx rm sb) :=
  fun rm sb => fun _ => Or.inl ⟨_, rfl, by
    simp only [prefix32_eq, BitVec.getLsbD_append (m := 3), BitVec.getLsbD_append (m := 4)]
    simp⟩

theorem blxReg : ∀ rm sb, Statement (.blxReg rm sb) :=
  fun rm sb => fun _ => Or.inl ⟨_, rfl, by
    simp only [prefix32_eq, BitVec.getLsbD_append (m := 3), BitVec.getLsbD_append (m := 4)]
    simp⟩

theorem ldrLit : ∀ rt imm8, Statement (.ldrLit rt imm8) :=
  fun rt imm8 => fun _ => Or.inl ⟨_, rfl, by
    simp only [prefix32_eq, BitVec.getLsbD_append (m := 3), BitVec.getLsbD_append (m := 8)]
    simp⟩

theorem strReg : ∀ rm rn rt, Statement (.strReg rm rn rt) :=
  fun rm rn rt => fun _ => Or.inl ⟨_, rfl, by simp only [prefix32_eq, BitVec.getLsbD_append (m := 3)]; simp⟩

theorem strhReg : ∀ rm rn rt, Statement (.strhReg rm rn rt) :=
  fun rm rn rt => fun _ => Or.inl ⟨_, rfl, by simp only [prefix32_eq, BitVec.getLsbD_append (m := 3)]; simp⟩

theorem strbReg : ∀ rm rn rt, Statement (.strbReg rm rn rt) :=
  fun rm rn rt => fun _ => Or.inl ⟨_, rfl, by simp only [prefix32_eq, BitVec.getLsbD_append (m := 3)]; simp⟩

theorem ldrsbReg : ∀ rm rn rt, Statement (.ldrsbReg rm rn rt) :=
  fun rm rn rt => fun _ => Or.inl ⟨_, rfl, by simp only [prefix32_eq, BitVec.getLsbD_append (m := 3)]; simp⟩

theorem ldrReg : ∀ rm rn rt, Statement (.ldrReg rm rn rt) :=
  fun rm rn rt => fun _ => Or.inl ⟨_, rfl, by simp only [prefix32_eq, BitVec.getLsbD_append (m := 3)]; simp⟩

theorem ldrhReg : ∀ rm rn rt, Statement (.ldrhReg rm rn rt) :=
  fun rm rn rt => fun _ => Or.inl ⟨_, rfl, by simp only [prefix32_eq, BitVec.getLsbD_append (m := 3)]; simp⟩

theorem ldrbReg : ∀ rm rn rt, Statement (.ldrbReg rm rn rt) :=
  fun rm rn rt => fun _ => Or.inl ⟨_, rfl, by simp only [prefix32_eq, BitVec.getLsbD_append (m := 3)]; simp⟩

theorem ldrshReg : ∀ rm rn rt, Statement (.ldrshReg rm rn rt) :=
  fun rm rn rt => fun _ => Or.inl ⟨_, rfl, by simp only [prefix32_eq, BitVec.getLsbD_append (m := 3)]; simp⟩

theorem strImm : ∀ imm5 rn rt, Statement (.strImm imm5 rn rt) :=
  fun imm5 rn rt => fun _ => Or.inl ⟨_, rfl, by
    simp only [prefix32_eq, BitVec.getLsbD_append (m := 3), BitVec.getLsbD_append (m := 5)]
    simp⟩

theorem ldrImm : ∀ imm5 rn rt, Statement (.ldrImm imm5 rn rt) :=
  fun imm5 rn rt => fun _ => Or.inl ⟨_, rfl, by
    simp only [prefix32_eq, BitVec.getLsbD_append (m := 3), BitVec.getLsbD_append (m := 5)]
    simp⟩

theorem strbImm : ∀ imm5 rn rt, Statement (.strbImm imm5 rn rt) :=
  fun imm5 rn rt => fun _ => Or.inl ⟨_, rfl, by
    simp only [prefix32_eq, BitVec.getLsbD_append (m := 3), BitVec.getLsbD_append (m := 5)]
    simp⟩

theorem ldrbImm : ∀ imm5 rn rt, Statement (.ldrbImm imm5 rn rt) :=
  fun imm5 rn rt => fun _ => Or.inl ⟨_, rfl, by
    simp only [prefix32_eq, BitVec.getLsbD_append (m := 3), BitVec.getLsbD_append (m := 5)]
    simp⟩

theorem strhImm : ∀ imm5 rn rt, Statement (.strhImm imm5 rn rt) :=
  fun imm5 rn rt => fun _ => Or.inl ⟨_, rfl, by
    simp only [prefix32_eq, BitVec.getLsbD_append (m := 3), BitVec.getLsbD_append (m := 5)]
    simp⟩

theorem ldrhImm : ∀ imm5 rn rt, Statement (.ldrhImm imm5 rn rt) :=
  fun imm5 rn rt => fun _ => Or.inl ⟨_, rfl, by
    simp only [prefix32_eq, BitVec.getLsbD_append (m := 3), BitVec.getLsbD_append (m := 5)]
    simp⟩

theorem strSp : ∀ rt imm8, Statement (.strSp rt imm8) :=
  fun rt imm8 => fun _ => Or.inl ⟨_, rfl, by
    simp only [prefix32_eq, BitVec.getLsbD_append (m := 3), BitVec.getLsbD_append (m := 8)]
    simp⟩

theorem ldrSp : ∀ rt imm8, Statement (.ldrSp rt imm8) :=
  fun rt imm8 => fun _ => Or.inl ⟨_, rfl, by
    simp only [prefix32_eq, BitVec.getLsbD_append (m := 3), BitVec.getLsbD_append (m := 8)]
    simp⟩

theorem adr : ∀ rd imm8, Statement (.adr rd imm8) :=
  fun rd imm8 => fun _ => Or.inl ⟨_, rfl, by
    simp only [prefix32_eq, BitVec.getLsbD_append (m := 3), BitVec.getLsbD_append (m := 8)]
    simp⟩

theorem addSpImm8 : ∀ rd imm8, Statement (.addSpImm8 rd imm8) :=
  fun rd imm8 => fun _ => Or.inl ⟨_, rfl, by
    simp only [prefix32_eq, BitVec.getLsbD_append (m := 3), BitVec.getLsbD_append (m := 8)]
    simp⟩

theorem addSpImm7 : ∀ imm7, Statement (.addSpImm7 imm7) :=
  fun imm7 => fun _ => Or.inl ⟨_, rfl, by simp only [prefix32_eq, BitVec.getLsbD_append (m := 7)]; simp⟩

theorem subSpImm7 : ∀ imm7, Statement (.subSpImm7 imm7) :=
  fun imm7 => fun _ => Or.inl ⟨_, rfl, by simp only [prefix32_eq, BitVec.getLsbD_append (m := 7)]; simp⟩

theorem cbz : ∀ i imm5 rn, Statement (.cbz i imm5 rn) :=
  fun i imm5 rn => fun _ => Or.inl ⟨_, rfl, by
    simp only [prefix32_eq, BitVec.getLsbD_append (m := 1), BitVec.getLsbD_append (m := 3), BitVec.getLsbD_append (m := 5)]
    simp⟩

theorem cbnz : ∀ i imm5 rn, Statement (.cbnz i imm5 rn) :=
  fun i imm5 rn => fun _ => Or.inl ⟨_, rfl, by
    simp only [prefix32_eq, BitVec.getLsbD_append (m := 1), BitVec.getLsbD_append (m := 3), BitVec.getLsbD_append (m := 5)]
    simp⟩

theorem sxth : ∀ rm rd, Statement (.sxth rm rd) :=
  fun rm rd => fun _ => Or.inl ⟨_, rfl, by simp only [prefix32_eq, BitVec.getLsbD_append (m := 3)]; simp⟩

theorem sxtb : ∀ rm rd, Statement (.sxtb rm rd) :=
  fun rm rd => fun _ => Or.inl ⟨_, rfl, by simp only [prefix32_eq, BitVec.getLsbD_append (m := 3)]; simp⟩

theorem uxth : ∀ rm rd, Statement (.uxth rm rd) :=
  fun rm rd => fun _ => Or.inl ⟨_, rfl, by simp only [prefix32_eq, BitVec.getLsbD_append (m := 3)]; simp⟩

theorem uxtb : ∀ rm rd, Statement (.uxtb rm rd) :=
  fun rm rd => fun _ => Or.inl ⟨_, rfl, by simp only [prefix32_eq, BitVec.getLsbD_append (m := 3)]; simp⟩

theorem push : ∀ m list, Statement (.push m list) :=
  fun m list => fun _ => Or.inl ⟨_, rfl, by
    simp only [prefix32_eq, BitVec.getLsbD_append (m := 1), BitVec.getLsbD_append (m := 8)]
    simp⟩

theorem pop : ∀ p list, Statement (.pop p list) :=
  fun p list => fun _ => Or.inl ⟨_, rfl, by
    simp only [prefix32_eq, BitVec.getLsbD_append (m := 1), BitVec.getLsbD_append (m := 8)]
    simp⟩

theorem rev : ∀ rm rd, Statement (.rev rm rd) :=
  fun rm rd => fun _ => Or.inl ⟨_, rfl, by simp only [prefix32_eq, BitVec.getLsbD_append (m := 3)]; simp⟩

theorem rev16 : ∀ rm rd, Statement (.rev16 rm rd) :=
  fun rm rd => fun _ => Or.inl ⟨_, rfl, by simp only [prefix32_eq, BitVec.getLsbD_append (m := 3)]; simp⟩

theorem revsh : ∀ rm rd, Statement (.revsh rm rd) :=
  fun rm rd => fun _ => Or.inl ⟨_, rfl, by simp only [prefix32_eq, BitVec.getLsbD_append (m := 3)]; simp⟩

theorem cps : ∀ im sb i f, Statement (.cps im sb i f) :=
  fun im sb i f => fun _ => Or.inl ⟨_, rfl, by
    simp only [prefix32_eq, BitVec.getLsbD_append (m := 1), BitVec.getLsbD_append (m := 2)]
    simp⟩

theorem bkpt : ∀ imm8, Statement (.bkpt imm8) :=
  fun imm8 => fun _ => Or.inl ⟨_, rfl, by simp only [prefix32_eq, BitVec.getLsbD_append (m := 8)]; simp⟩

theorem it : ∀ firstcond mask, Statement (.it firstcond mask) :=
  fun firstcond mask => fun _ => Or.inl ⟨_, rfl, by simp only [prefix32_eq, BitVec.getLsbD_append (m := 4)]; simp⟩

theorem nop : Statement (.nop) :=
  fun _ => Or.inl ⟨_, rfl, by simp only [prefix32_eq]; simp⟩

theorem yield : Statement (.yield) :=
  fun _ => Or.inl ⟨_, rfl, by simp only [prefix32_eq]; simp⟩

theorem wfe : Statement (.wfe) :=
  fun _ => Or.inl ⟨_, rfl, by simp only [prefix32_eq]; simp⟩

theorem wfi : Statement (.wfi) :=
  fun _ => Or.inl ⟨_, rfl, by simp only [prefix32_eq]; simp⟩

theorem sev : Statement (.sev) :=
  fun _ => Or.inl ⟨_, rfl, by simp only [prefix32_eq]; simp⟩

theorem hintUnallocated : ∀ opA, Statement (.hintUnallocated opA) :=
  fun opA => fun _ => Or.inl ⟨_, rfl, by simp only [prefix32_eq, BitVec.getLsbD_append (m := 4)]; simp⟩

theorem stm : ∀ rn list, Statement (.stm rn list) :=
  fun rn list => fun _ => Or.inl ⟨_, rfl, by
    simp only [prefix32_eq, BitVec.getLsbD_append (m := 3), BitVec.getLsbD_append (m := 8)]
    simp⟩

theorem ldm : ∀ rn list, Statement (.ldm rn list) :=
  fun rn list => fun _ => Or.inl ⟨_, rfl, by
    simp only [prefix32_eq, BitVec.getLsbD_append (m := 3), BitVec.getLsbD_append (m := 8)]
    simp⟩

theorem bCond : ∀ cond imm8, Statement (.bCond cond imm8) :=
  fun cond imm8 => fun _ => Or.inl ⟨_, rfl, by
    simp only [prefix32_eq, BitVec.getLsbD_append (m := 4), BitVec.getLsbD_append (m := 8)]
    simp⟩

theorem unpredUdf : ∀ imm8, Statement (.unpredUdf imm8) :=
  fun imm8 => fun _ => Or.inl ⟨_, rfl, by simp only [prefix32_eq, BitVec.getLsbD_append (m := 8)]; simp⟩

theorem svc : ∀ imm8, Statement (.svc imm8) :=
  fun imm8 => fun _ => Or.inl ⟨_, rfl, by simp only [prefix32_eq, BitVec.getLsbD_append (m := 8)]; simp⟩

theorem b : ∀ imm11, Statement (.b imm11) :=
  fun imm11 => fun _ => Or.inl ⟨_, rfl, by simp only [prefix32_eq, BitVec.getLsbD_append (m := 11)]; simp⟩

theorem stmW : ∀ w rn sb15 m sb13 list, Statement (.stmW w rn sb15 m sb13 list) :=
  fun w rn sb15 m sb13 list => fun _ => Or.inr ⟨_, _, rfl, by
    simp only [prefix32_eq, BitVec.getLsbD_append (m := 1), BitVec.getLsbD_append (m := 4)]
    simp⟩

theorem ldmW : ∀ w rn p m sb13 list, Statement (.ldmW w rn p m sb13 list) :=
  fun w rn p m sb13 list => fun _ => Or.inr ⟨_, _, rfl, by
    simp only [prefix32_eq, BitVec.getLsbD_append (m := 1), BitVec.getLsbD_append (m := 4)]
    simp⟩

theorem popW : ∀ p m sb13 list, Statement (.popW p m sb13 list) :=
  fun p m sb13 list => fun _ => Or.inr ⟨_, _, rfl, by simp only [prefix32_eq]; simp⟩

theorem stmdb : ∀ w rn sb15 m sb13 list, Statement (.stmdb w rn sb15 m sb13 list) :=
  fun w rn sb15 m sb13 list => fun _ => Or.inr ⟨_, _, rfl, by
    simp only [prefix32_eq, BitVec.getLsbD_append (m := 1), BitVec.getLsbD_append (m := 4)]
    simp⟩

theorem pushW : ∀ sb15 m sb13 list, Statement (.pushW sb15 m sb13 list) :=
  fun sb15 m sb13 list => fun _ => Or.inr ⟨_, _, rfl, by simp only [prefix32_eq]; simp⟩

theorem ldmdb : ∀ w rn p m sb13 list, Statement (.ldmdb w rn p m sb13 list) :=
  fun w rn p m sb13 list => fun _ => Or.inr ⟨_, _, rfl, by
    simp only [prefix32_eq, BitVec.getLsbD_append (m := 1), BitVec.getLsbD_append (m := 4)]
    simp⟩

theorem strex : ∀ rn rt rd imm8, Statement (.strex rn rt rd imm8) :=
  fun rn rt rd imm8 => fun _ => Or.inr ⟨_, _, rfl, by simp only [prefix32_eq, BitVec.getLsbD_append (m := 4)]; simp⟩

theorem ldrex : ∀ rn rt sb imm8, Statement (.ldrex rn rt sb imm8) :=
  fun rn rt sb imm8 => fun _ => Or.inr ⟨_, _, rfl, by simp only [prefix32_eq, BitVec.getLsbD_append (m := 4)]; simp⟩

theorem strdImm : ∀ p u w rn rt rt2 imm8, Statement (.strdImm p u w rn rt rt2 imm8) :=
  fun p u w rn rt rt2 imm8 => fun _ => Or.inr ⟨_, _, rfl, by
    simp only [prefix32_eq, BitVec.getLsbD_append (m := 1), BitVec.getLsbD_append (m := 4)]
    simp⟩

theorem ldrdImm : ∀ p u w rn rt rt2 imm8, Statement (.ldrdImm p u w rn rt rt2 imm8) :=
  fun p u w rn rt rt2 imm8 => fun _ => Or.inr ⟨_, _, rfl, by
    simp only [prefix32_eq, BitVec.getLsbD_append (m := 1), BitVec.getLsbD_append (m := 4)]
    simp⟩

theorem ldrdLit : ∀ p u w rt rt2 imm8, Statement (.ldrdLit p u w rt rt2 imm8) :=
  fun p u w rt rt2 imm8 => fun _ => Or.inr ⟨_, _, rfl, by
    simp only [prefix32_eq, BitVec.getLsbD_append (m := 1), BitVec.getLsbD_append (m := 5)]
    simp⟩

theorem strexb : ∀ rn rt sb rd, Statement (.strexb rn rt sb rd) :=
  fun rn rt sb rd => fun _ => Or.inr ⟨_, _, rfl, by simp only [prefix32_eq, BitVec.getLsbD_append (m := 4)]; simp⟩

theorem strexh : ∀ rn rt sb rd, Statement (.strexh rn rt sb rd) :=
  fun rn rt sb rd => fun _ => Or.inr ⟨_, _, rfl, by simp only [prefix32_eq, BitVec.getLsbD_append (m := 4)]; simp⟩

theorem ldrexb : ∀ rn rt sbHi sbLo, Statement (.ldrexb rn rt sbHi sbLo) :=
  fun rn rt sbHi sbLo => fun _ => Or.inr ⟨_, _, rfl, by simp only [prefix32_eq, BitVec.getLsbD_append (m := 4)]; simp⟩

theorem ldrexh : ∀ rn rt sbHi sbLo, Statement (.ldrexh rn rt sbHi sbLo) :=
  fun rn rt sbHi sbLo => fun _ => Or.inr ⟨_, _, rfl, by simp only [prefix32_eq, BitVec.getLsbD_append (m := 4)]; simp⟩

theorem tbb : ∀ rn sb rm, Statement (.tbb rn sb rm) :=
  fun rn sb rm => fun _ => Or.inr ⟨_, _, rfl, by simp only [prefix32_eq, BitVec.getLsbD_append (m := 4)]; simp⟩

theorem tbh : ∀ rn sb rm, Statement (.tbh rn sb rm) :=
  fun rn sb rm => fun _ => Or.inr ⟨_, _, rfl, by simp only [prefix32_eq, BitVec.getLsbD_append (m := 4)]; simp⟩

theorem unpredNop16 : ∀ hw, Statement (.unpredNop16 hw) :=
  fun hw => fun h => Or.inl ⟨_, rfl, prefix32_of_unmapped16 h⟩

theorem unpredNop32 : ∀ hw1 hw2, Statement (.unpredNop32 hw1 hw2) :=
  fun hw1 hw2 => fun h => Or.inr ⟨_, _, rfl, (Bool.and_eq_true_iff.mp h).1⟩

end Sys2Proof.Laws.EncodedLength
end

