-- ==== Sys2Proof/Tests/Slice0.lean ====
section
/-! SUPPORT. Tests: what WellFormed refuses, the decoding of words written out in the spec's rules, one step per rule
example (the expected values are the rules' own), and for every obligation a case that meets its hypotheses. -/

namespace Sys2Proof.Tests

open Sys2Proof Sys2Proof.Machine

/-! ### WellFormed -/

/-- A term each check refuses, beside a neighbour it takes. -/
theorem test_wellFormed_lslImm :
    Instr.wellFormed (.lslImm 0 1 2) = false ∧ Instr.wellFormed (.lslImm 1 1 2) = true := by decide

theorem test_wellFormed_cmpHi :
    Instr.wellFormed (.cmpHi 7 7) = false ∧ Instr.wellFormed (.cmpHi 8 7) = true := by decide

theorem test_wellFormed_it :
    Instr.wellFormed (.it 0 0) = false ∧ Instr.wellFormed (.it 0 8) = true := by decide

theorem test_wellFormed_hintUnallocated :
    Instr.wellFormed (.hintUnallocated 4) = false ∧ Instr.wellFormed (.hintUnallocated 5) = true := by decide

theorem test_wellFormed_bCond_always :
    Instr.wellFormed (.bCond 14 0) = false ∧ Instr.wellFormed (.bCond 13 0) = true := by decide

theorem test_wellFormed_bCond_svc :
    Instr.wellFormed (.bCond 15 0) = false ∧ Instr.wellFormed (.bCond 0 0) = true := by decide

theorem test_wellFormed_ldmW :
    Instr.wellFormed (.ldmW true 13 true false false 6) = false ∧ Instr.wellFormed (.ldmW false 13 true false false 6) = true := by decide

theorem test_wellFormed_stmdb :
    Instr.wellFormed (.stmdb true 13 false true false 6) = false ∧ Instr.wellFormed (.stmdb true 12 false true false 6) = true := by decide

theorem test_wellFormed_strdImm :
    Instr.wellFormed (.strdImm false true false 0 1 2 0) = false ∧ Instr.wellFormed (.strdImm false true true 0 1 2 0) = true := by decide

theorem test_wellFormed_ldrdImm_slot :
    Instr.wellFormed (.ldrdImm false true false 0 1 2 0) = false ∧ Instr.wellFormed (.ldrdImm true false false 0 1 2 0) = true := by decide

theorem test_wellFormed_ldrdImm_pc :
    Instr.wellFormed (.ldrdImm true true false 15 1 2 0) = false ∧ Instr.wellFormed (.ldrdImm true true false 14 1 2 0) = true := by decide

theorem test_wellFormed_ldrdLit :
    Instr.wellFormed (.ldrdLit false true false 1 2 0) = false ∧ Instr.wellFormed (.ldrdLit true true false 1 2 0) = true := by decide

theorem test_wellFormed_unpredNop16 :
    Instr.wellFormed (.unpredNop16 0xB510) = false ∧ Instr.wellFormed (.unpredNop16 0xB800) = true := by decide

theorem test_wellFormed_unpredNop32 :
    Instr.wellFormed (.unpredNop32 0xE8D0 0x1F4F) = false ∧ Instr.wellFormed (.unpredNop32 0xE8D0 0x1F7F) = true := by decide

/-! ### Decoding

Every constructor, by the word its rule writes out (Example, or Encoding with the fields filled in). -/

/-- Whether each word decodes to its instruction. -/
def decodes (l : List (Nat × Nat × Instr)) : Bool := l.all fun (n, w, i) => decide (decodeTableWord n w = some i)

theorem test_decode_shiftAddSub :
    decodes [
      (16, 0b0000000100010001, .lslImm 4 2 1),
      (16, 0b0000000000001000, .movsReg 1 0),
      (16, 0b0000100001001000, .lsrImm 1 1 0),
      (16, 0b0001000001001000, .asrImm 1 1 0),
      (16, 0b0001100000000000, .addReg 0 0 0),
      (16, 0b0001101000001010, .subReg 0 1 2),
      (16, 0b0001110111001000, .addImm3 7 1 0),
      (16, 0b0001111001001000, .subImm3 1 1 0),
      (16, 0b0010001111111111, .movImm 3 255),
      (16, 0b0010100100000101, .cmpImm 1 5),
      (16, 0b0011001011111111, .addImm8 2 255),
      (16, 0b0011100000000001, .subImm8 0 1)] = true := by decide

theorem test_decode_dataProcessing :
    decodes [
      (16, 0b0100000000001000, .andReg 1 0),
      (16, 0b0100000001001000, .eorReg 1 0),
      (16, 0b0100000010001000, .lslReg 1 0),
      (16, 0b0100000011001000, .lsrReg 1 0),
      (16, 0b0100000100001000, .asrReg 1 0),
      (16, 0b0100000101001000, .adcReg 1 0),
      (16, 0b0100000110001000, .sbcReg 1 0),
      (16, 0b0100000111001000, .rorReg 1 0),
      (16, 0b0100001000001000, .tstReg 1 0),
      (16, 0b0100001001001000, .rsbImm0 1 0),
      (16, 0b0100001010001000, .cmpReg 1 0),
      (16, 0b0100001011001000, .cmnReg 1 0),
      (16, 0b0100001100001000, .orrReg 1 0),
      (16, 0b0100001101001000, .mulReg 1 0),
      (16, 0b0100001110001000, .bicReg 1 0),
      (16, 0b0100001111001000, .mvnReg 1 0)] = true := by decide

theorem test_decode_specialData :
    decodes [
      (16, 0b0100010001000000, .addHi 8 0),
      (16, 0b0100010010001101, .addHi 1 13),
      (16, 0b0100010100001000, .unpredCmpLowLow 8),
      (16, 0b0100010110000000, .cmpHi 0 8),
      (16, 0b0100010101000000, .cmpHi 8 0),
      (16, 0b0100011010000101, .movHi 0 13),
      (16, 0b0100011011110111, .movHi 14 15),
      (16, 0b0100011101110000, .bx 14 0),
      (16, 0b0100011110011000, .blxReg 3 0)] = true := by decide

theorem test_decode_loadStoreSingle :
    decodes [
      (16, 0b0100100000000001, .ldrLit 0 1),
      (16, 0b0101000010001000, .strReg 2 1 0),
      (16, 0b0101001010001000, .strhReg 2 1 0),
      (16, 0b0101010010001000, .strbReg 2 1 0),
      (16, 0b0101011010001000, .ldrsbReg 2 1 0),
      (16, 0b0101100010001000, .ldrReg 2 1 0),
      (16, 0b0101101010001000, .ldrhReg 2 1 0),
      (16, 0b0101110010001000, .ldrbReg 2 1 0),
      (16, 0b0101111010001000, .ldrshReg 2 1 0),
      (16, 0b0110000001001000, .strImm 1 1 0),
      (16, 0b0110100001001000, .ldrImm 1 1 0),
      (16, 0b0111000001001000, .strbImm 1 1 0),
      (16, 0b0111100001001000, .ldrbImm 1 1 0),
      (16, 0b1000000001001000, .strhImm 1 1 0),
      (16, 0b1000100001001000, .ldrhImm 1 1 0),
      (16, 0b1001000000000001, .strSp 0 1),
      (16, 0b1001100000000001, .ldrSp 0 1)] = true := by decide

theorem test_decode_misc16 :
    decodes [
      (16, 0b1010000000000010, .adr 0 2),
      (16, 0b1010100100000100, .addSpImm8 1 4),
      (16, 0b1011000000000010, .addSpImm7 2),
      (16, 0b1011000010000010, .subSpImm7 2),
      (16, 0b1011000100010000, .cbz false 2 0),
      (16, 0b1011001100010000, .cbz true 2 0),
      (16, 0b1011100100010000, .cbnz false 2 0),
      (16, 0b1011001000001000, .sxth 1 0),
      (16, 0b1011001001001000, .sxtb 1 0),
      (16, 0b1011001010001000, .uxth 1 0),
      (16, 0b1011001011001000, .uxtb 1 0),
      (16, 0b1011010100010000, .push true 0x10),
      (16, 0b1011110100010000, .pop true 0x10),
      (16, 0b1011101000001000, .rev 1 0),
      (16, 0b1011101001001000, .rev16 1 0),
      (16, 0b1011101011001000, .revsh 1 0),
      (16, 0b1011011001110010, .cps true 0 true false),
      (16, 0b1011011001100001, .cps false 0 false true),
      (16, 0b1011111010101011, .bkpt 0xAB),
      (16, 0b1011111100001100, .it 0 12),
      (16, 0b1011111100000000, .nop),
      (16, 0b1011111100010000, .yield),
      (16, 0b1011111100100000, .wfe),
      (16, 0b1011111100110000, .wfi),
      (16, 0b1011111101000000, .sev),
      (16, 0b1011111101010000, .hintUnallocated 5),
      (16, 0b1011100000000000, .unpredNop16 0xB800)] = true := by decide

theorem test_decode_multipleBranch :
    decodes [
      (16, 0b1100000000000110, .stm 0 6),
      (16, 0b1100100000000110, .ldm 0 6),
      (16, 0b1101000000000010, .bCond 0 2),
      (16, 0b1101000111111101, .bCond 1 0xFD),
      (16, 0b1101111011111111, .unpredUdf 255),
      (16, 0b1101111100000001, .svc 1),
      (16, 0b1110011111111110, .b 0x7FE)] = true := by decide

theorem test_decode_multiple32 :
    decodes [
      (32, 0b11101000101000000000000000000110, .stmW true 0 false false false 6),
      (32, 0b11101000101100000000000000000110, .ldmW true 0 false false false 6),
      (32, 0b11101000101111011000111111110000, .popW true false false 0xFF0),
      (32, 0b11101001001000000000000000000110, .stmdb true 0 false false false 6),
      (32, 0b11101001001011010100111111110000, .pushW false true false 0xFF0),
      (32, 0b11101001001100000000000000000110, .ldmdb true 0 false false false 6)] = true := by decide

theorem test_decode_dualExclusive :
    decodes [
      (32, 0b11101000010000000001001000000000, .strex 0 1 2 0),
      (32, 0b11101000010100000001111100000000, .ldrex 0 1 15 0),
      (32, 0b11101001110000000010001100000010, .strdImm true true false 0 2 3 2),
      (32, 0b11101000111100000010001100000010, .ldrdImm false true true 0 2 3 2),
      (32, 0b11101001110111110000000100000010, .ldrdLit true true false 0 1 2),
      (32, 0b11101000110000000001111101000010, .strexb 0 1 15 2),
      (32, 0b11101000110000000001111101010010, .strexh 0 1 15 2),
      (32, 0b11101000110100000001111101001111, .ldrexb 0 1 15 15),
      (32, 0b11101000110100000001111101011111, .ldrexh 0 1 15 15),
      (32, 0b11101000110111111111000000000000, .tbb 15 0xF0 0),
      (32, 0b11101000110100001111000000010001, .tbh 0 0xF0 1),
      (32, 0b11101000110100000001111101111111, .unpredNop32 0xE8D0 0x1F7F),
      (32, 0b11110000000000000000000000000000, .unpredNop32 0xF000 0)] = true := by decide

/-- Bytes in address order: a 16-bit instruction takes two, a 32-bit one four, too few are refused. -/
theorem test_decode_bytes :
    decode [0x08, 0x08, 0xAA] = .ok (.lsrImm 0 1 0, [0xAA]) ∧
      decode [0x50, 0xE8, 0x00, 0x1F] = .ok (.ldrex 0 1 15 0, []) ∧
      decode [0x50, 0xE8, 0x00] = .error .truncated ∧ decode [0x08] = .error .truncated := by decide

/-! ### One step of each rule's example -/

/-- The bytes of `v` as cells from `a`, those that an unlisted address reads as left out. -/
def word (a : Nat) (v : Word) : List Host.Cell :=
  [(a, v.setWidth 8), (a + 1, (v >>> 8).setWidth 8), (a + 2, (v >>> 16).setWidth 8), (a + 3, (v >>> 24).setWidth 8)].filter
    fun c => c.2 != unlistedByte

/-- A small machine in Thread mode at `pc` with the listed registers and memory, everything else as after reset. -/
def machine (pc : Word) (regs : List (RegNum × Word)) (cells : List Host.Cell) : State :=
  let s := State.resetWith ⟨16, .any, true⟩ wholeSpace ⟨cells⟩ 0
  State.writeAll { s with pc := pc, psr := { s.psr with t := true } } regs

/-- The machine with the flags N, Z, C, V. -/
def flags (s : State) (n z c v : Bool) : State := s.setPsr { s.psr with n := n, z := z, c := c, v := v }

/-- The state after the step that runs the instruction whose bits are `w`. -/
def after (nbits w : Nat) (s : State) : Option State :=
  match step (s.withFetchWord nbits w) with
  | .next t => some t
  | _ => none

/-- N, Z, C, V. -/
def nzcv (t : State) : Bool × Bool × Bool × Bool := (t.psr.n, t.psr.z, t.psr.c, t.psr.v)

theorem test_lslImm :
    (after 16 0x0111
      (flags (machine 0x100 [(2, 0x10000001)] []) false false false true)).map
      (fun t => (t.x32 1, nzcv t))
      = some (0x10, (false, false, true, true)) := by decide

theorem test_movsReg :
    (after 16 0x0008
      (flags (machine 0x100 [(1, 0x80000000)] []) false true true true)).map
      (fun t => (t.x32 0, nzcv t))
      = some (0x80000000, (true, false, true, true)) := by decide

theorem test_lsrImm :
    (after 16 0x0848 (machine 0x100 [(1, 3)] [])).map (fun t => (t.x32 0, nzcv t))
      = some (1, (false, false, true, false)) := by decide

theorem test_lsrImm_by32 :
    (after 16 0x0808 (machine 0x100 [(1, 0x80000000)] [])).map (fun t => (t.x32 0, nzcv t))
      = some (0, (false, true, true, false)) := by decide

theorem test_asrImm :
    (after 16 0x1048 (machine 0x100 [(1, 0x80000001)] [])).map (fun t => (t.x32 0, nzcv t))
      = some (0xC0000000, (true, false, true, false)) := by decide

theorem test_addReg :
    (after 16 0x1800 (machine 0x100 [(0, 0x80000000)] [])).map (fun t => (t.x32 0, nzcv t))
      = some (0, (false, true, true, true)) := by decide

theorem test_subReg :
    (after 16 0x1A0A (machine 0x100 [(0, 1)] [])).map (fun t => (t.x32 2, nzcv t))
      = some (0xFFFFFFFF, (true, false, false, false)) := by decide

theorem test_addImm3 :
    (after 16 0x1DC8 (machine 0x100 [(1, 0xFFFFFFFF)] [])).map (fun t => (t.x32 0, nzcv t))
      = some (6, (false, false, true, false)) := by decide

theorem test_subImm3 :
    (after 16 0x1E48 (machine 0x100 [(1, 0x80000000)] [])).map (fun t => (t.x32 0, nzcv t))
      = some (0x7FFFFFFF, (false, false, true, true)) := by decide

theorem test_movImm :
    (after 16 0x23FF (flags (machine 0x100 [] []) true true true true)).map (fun t => (t.x32 3, nzcv t))
      = some (0xFF, (false, false, true, true)) := by decide

theorem test_cmpImm :
    (after 16 0x2905 (machine 0x100 [(1, 5)] [])).map (fun t => (t.x32 1, nzcv t))
      = some (5, (false, true, true, false)) := by decide

theorem test_cmpImm_less :
    (after 16 0x2905 (machine 0x100 [(1, 4)] [])).map (fun t => (t.x32 1, nzcv t))
      = some (4, (true, false, false, false)) := by decide

theorem test_addImm8 :
    (after 16 0x32FF (machine 0x100 [(2, 1)] [])).map (fun t => (t.x32 2, nzcv t))
      = some (0x100, (false, false, false, false)) := by decide

theorem test_subImm8 :
    (after 16 0x3801 (machine 0x100 [] [])).map (fun t => (t.x32 0, nzcv t))
      = some (0xFFFFFFFF, (true, false, false, false)) := by decide

theorem test_andReg :
    (after 16 0x4008
      (flags (machine 0x100 [(0, 0xF0F0F0F0), (1, 0x0FF00FF0)] []) true false true true)).map
      (fun t => (t.x32 0, nzcv t))
      = some (0x00F000F0, (false, false, true, true)) := by decide

theorem test_eorReg :
    (after 16 0x4048 (machine 0x100 [(0, 0xFFFFFFFF), (1, 0xFFFFFFFF)] [])).map (fun t => (t.x32 0, nzcv t))
      = some (0, (false, true, false, false)) := by decide

theorem test_lslReg_by32 :
    (after 16 0x4088 (machine 0x100 [(0, 1), (1, 32)] [])).map (fun t => (t.x32 0, nzcv t))
      = some (0, (false, true, true, false)) := by decide

theorem test_lslReg_by33 :
    (after 16 0x4088
      (flags (machine 0x100 [(0, 1), (1, 33)] []) false false true false)).map
      (fun t => (t.x32 0, nzcv t))
      = some (0, (false, true, false, false)) := by decide

theorem test_lsrReg :
    (after 16 0x40C8 (machine 0x100 [(0, 0x80000000), (1, 32)] [])).map (fun t => (t.x32 0, nzcv t))
      = some (0, (false, true, true, false)) := by decide

theorem test_asrReg :
    (after 16 0x4108 (machine 0x100 [(0, 0x80000000), (1, 40)] [])).map (fun t => (t.x32 0, nzcv t))
      = some (0xFFFFFFFF, (true, false, true, false)) := by decide

theorem test_adcReg :
    (after 16 0x4148
      (flags (machine 0x100 [(0, 0xFFFFFFFF)] []) false false true false)).map
      (fun t => (t.x32 0, nzcv t))
      = some (0, (false, true, true, false)) := by decide

theorem test_sbcReg :
    (after 16 0x4188 (machine 0x100 [(0, 5), (1, 3)] [])).map (fun t => (t.x32 0, nzcv t))
      = some (1, (false, false, true, false)) := by decide

theorem test_sbcReg_carry :
    (after 16 0x4188
      (flags (machine 0x100 [(0, 5), (1, 3)] []) false false true false)).map
      (fun t => (t.x32 0, nzcv t))
      = some (2, (false, false, true, false)) := by decide

theorem test_rorReg :
    (after 16 0x41C8 (machine 0x100 [(0, 1), (1, 33)] [])).map (fun t => (t.x32 0, nzcv t))
      = some (0x80000000, (true, false, true, false)) := by decide

theorem test_tstReg :
    (after 16 0x4208
      (flags (machine 0x100 [(0, 0x80000000), (1, 0x80000000)] []) false false true true)).map
      (fun t => (t.x32 0, nzcv t))
      = some (0x80000000, (true, false, true, true)) := by decide

theorem test_rsbImm0 :
    (after 16 0x4248 (machine 0x100 [(1, 1)] [])).map (fun t => (t.x32 0, nzcv t))
      = some (0xFFFFFFFF, (true, false, false, false)) := by decide

theorem test_rsbImm0_least :
    (after 16 0x4248 (machine 0x100 [(1, 0x80000000)] [])).map (fun t => (t.x32 0, nzcv t))
      = some (0x80000000, (true, false, false, true)) := by decide

theorem test_cmpReg :
    (after 16 0x4288 (machine 0x100 [(0, 1), (1, 2)] [])).map (fun t => (t.x32 0, nzcv t))
      = some (1, (true, false, false, false)) := by decide

theorem test_cmnReg :
    (after 16 0x42C8 (machine 0x100 [(0, 0xFFFFFFFF), (1, 1)] [])).map (fun t => (t.x32 0, nzcv t))
      = some (0xFFFFFFFF, (false, true, true, false)) := by decide

theorem test_orrReg :
    (after 16 0x4308 (machine 0x100 [(0, 0x0F), (1, 0xF0)] [])).map (fun t => (t.x32 0, nzcv t))
      = some (0xFF, (false, false, false, false)) := by decide

theorem test_mulReg :
    (after 16 0x4348
      (flags (machine 0x100 [(0, 0xFFFFFFFF), (1, 0xFFFFFFFF)] []) true true true true)).map
      (fun t => (t.x32 0, nzcv t))
      = some (1, (false, false, true, true)) := by decide

theorem test_bicReg :
    (after 16 0x4388 (machine 0x100 [(0, 0xFF), (1, 0x0F)] [])).map (fun t => (t.x32 0, nzcv t))
      = some (0xF0, (false, false, false, false)) := by decide

theorem test_mvnReg :
    (after 16 0x43C8 (machine 0x100 [] [])).map (fun t => (t.x32 0, nzcv t))
      = some (0xFFFFFFFF, (true, false, false, false)) := by decide

theorem test_addHi :
    (after 16 0x4440
      (flags (machine 0x100 [(0, 1), (8, 0xFFFFFFFF)] []) true false false true)).map
      (fun t => (t.x32 0, nzcv t))
      = some (0, (true, false, false, true)) := by decide

theorem test_addHi_pc :
    (after 16 0x4487 (machine 0x100 [(0, 0x21)] [])).map (fun t => (t.pc, t.psr.t))
      = some (0x124, true) := by decide

theorem test_cmpHi :
    (after 16 0x4580 (machine 0x100 [(8, 5), (0, 5)] [])).map (fun t => (t.x32 8, nzcv t))
      = some (5, (false, true, true, false)) := by decide

theorem test_cmpHi_pc :
    (after 16 0x45F8 (machine 0x100 [] [])).map (fun t => (nzcv t, t.log))
      = some ((false, false, false, false), [.unpredictable 0x45F8]) := by decide

theorem test_movHi_sp :
    (after 16 0x4685 (machine 0x100 [(0, 0x20000FF3)] [])).map (fun t => (t.spMain, t.spProcess))
      = some (0x20000FF0, 0) := by decide

theorem test_movHi_pc :
    (after 16 0x46F7 (machine 0x100 [(14, 0x101)] [])).map (fun t => (t.pc, t.psr.t))
      = some (0x100, true) := by decide

theorem test_bx :
    (after 16 0x4770 (machine 0x100 [(14, 0x235)] [])).map (fun t => (t.pc, t.psr.t))
      = some (0x234, true) := by decide

theorem test_blxReg :
    (after 16 0x4798 (machine 0x100 [(3, 0x401)] [])).map (fun t => (t.lr, t.pc, t.psr.t))
      = some (0x103, 0x400, true) := by decide

theorem test_unpredCmpLowLow :
    (after 16 0x4508 (machine 0x100 [(1, 1)] [])).map (fun t => (t.pc, nzcv t, t.log))
      = some (0x102, (false, false, false, false), [.unpredictable 0x4508]) := by decide

theorem test_ldrLit :
    (after 16 0x4801 (machine 0x102 [] (word 0x108 0xDEADBEEF))).map (fun t => t.x32 0)
      = some 0xDEADBEEF := by decide

theorem test_strReg :
    (after 16 0x5088
      (machine 0x100 [(1, 0x20000000), (2, 8), (0, 0x11223344)] [])).map
      (fun t => t.mem.readLE 0x20000008 4)
      = some 0x11223344 := by decide

theorem test_strhReg :
    (after 16 0x5288
      (machine 0x100 [(1, 0x20000000), (2, 8), (0, 0x11223344)] [])).map
      (fun t => t.mem.readLE 0x20000008 4)
      = some 0x3344 := by decide

theorem test_strbReg :
    (after 16 0x5488
      (machine 0x100 [(1, 0x20000000), (2, 8), (0, 0x11223344)] [])).map
      (fun t => t.mem.readLE 0x20000008 4)
      = some 0x44 := by decide

theorem test_ldrsbReg :
    (after 16 0x5688 (machine 0x100 [(1, 0x20000000), (2, 8)] (word 0x20000008 0x80))).map (fun t => t.x32 0)
      = some 0xFFFFFF80 := by decide

theorem test_ldrsbReg_positive :
    (after 16 0x5688 (machine 0x100 [(1, 0x20000000), (2, 8)] (word 0x20000008 0x7F))).map (fun t => t.x32 0)
      = some 0x7F := by decide

theorem test_ldrReg :
    (after 16 0x5888 (machine 0x100 [(1, 0x20000000), (2, 8)] (word 0x20000008 0x11223344))).map (fun t => t.x32 0)
      = some 0x11223344 := by decide

theorem test_ldrhReg :
    (after 16 0x5A88 (machine 0x100 [(1, 0x20000000), (2, 8)] (word 0x20000008 0xF234))).map (fun t => t.x32 0)
      = some 0xF234 := by decide

theorem test_ldrbReg :
    (after 16 0x5C88 (machine 0x100 [(1, 0x20000000), (2, 8)] (word 0x20000008 0x80))).map (fun t => t.x32 0)
      = some 0x80 := by decide

theorem test_ldrshReg :
    (after 16 0x5E88 (machine 0x100 [(1, 0x20000000), (2, 8)] (word 0x20000008 0xF234))).map (fun t => t.x32 0)
      = some 0xFFFFF234 := by decide

theorem test_strImm :
    (after 16 0x6048 (machine 0x100 [(1, 0x20000000), (0, 0xCAFEBABE)] [])).map (fun t => t.mem.readLE 0x20000004 4)
      = some 0xCAFEBABE := by decide

theorem test_ldrImm :
    (after 16 0x6848 (machine 0x100 [(1, 0x20000000)] (word 0x20000004 0xCAFEBABE))).map (fun t => t.x32 0)
      = some 0xCAFEBABE := by decide

theorem test_strbImm :
    (after 16 0x7048 (machine 0x100 [(1, 0x20000000), (0, 0x1AB)] [])).map (fun t => t.mem.readLE 0x20000000 4)
      = some 0xAB00 := by decide

theorem test_ldrbImm :
    (after 16 0x7848 (machine 0x100 [(1, 0x20000000)] (word 0x20000000 0xAB00))).map (fun t => t.x32 0)
      = some 0xAB := by decide

theorem test_strhImm :
    (after 16 0x8048 (machine 0x100 [(1, 0x20000000), (0, 0xFFFF1234)] [])).map (fun t => t.mem.readLE 0x20000000 4)
      = some 0x12340000 := by decide

theorem test_ldrhImm :
    (after 16 0x8848 (machine 0x100 [(1, 0x20000000)] (word 0x20000000 0x12340000))).map (fun t => t.x32 0)
      = some 0x1234 := by decide

theorem test_strSp :
    (after 16 0x9001 (machine 0x100 [(13, 0x20001000), (0, 7)] [])).map (fun t => t.mem.readLE 0x20001004 4)
      = some 7 := by decide

theorem test_ldrSp :
    (after 16 0x9801 (machine 0x100 [(13, 0x20001000)] (word 0x20001004 7))).map (fun t => t.x32 0)
      = some 7 := by decide

theorem test_strImm_refused :
    (after 16 0x6048
      ({ (machine 0x100 [(1, 0x20000000), (0, 7)] []) with regions := [⟨0, 0x1000, .ram, true, true⟩, ⟨0x20000000, 0x1000, .rom, true, false⟩] })).map
      (fun t => (t.mem.readLE 0x20000004 4, t.pc, t.log))
      = some (0, 0x102, [.accessFailed 0x20000004]) := by decide

theorem test_adr :
    (after 16 0xA002 (machine 0x102 [] [])).map (fun t => t.x32 0)
      = some 0x10C := by decide

theorem test_addSpImm8 :
    (after 16 0xA904 (machine 0x100 [(13, 0x20001000)] [])).map (fun t => (t.x32 1, t.spMain))
      = some (0x20001010, 0x20001000) := by decide

theorem test_addSpImm7 :
    (after 16 0xB002 (machine 0x100 [(13, 0x20000FF8)] [])).map (fun t => t.spMain)
      = some 0x20001000 := by decide

theorem test_subSpImm7 :
    (after 16 0xB082 (machine 0x100 [(13, 0x20001000)] [])).map (fun t => t.spMain)
      = some 0x20000FF8 := by decide

theorem test_cbz_taken :
    (after 16 0xB110 (machine 0x100 [] [])).map (fun t => t.pc)
      = some 0x108 := by decide

theorem test_cbz_not_taken :
    (after 16 0xB110 (machine 0x100 [(0, 1)] [])).map (fun t => t.pc)
      = some 0x102 := by decide

theorem test_cbnz_taken :
    (after 16 0xB910 (machine 0x100 [(0, 1)] [])).map (fun t => t.pc)
      = some 0x108 := by decide

theorem test_cbnz_not_taken :
    (after 16 0xB910 (machine 0x100 [] [])).map (fun t => t.pc)
      = some 0x102 := by decide

theorem test_sxth :
    (after 16 0xB208 (machine 0x100 [(1, 0x12348000)] [])).map (fun t => t.x32 0)
      = some 0xFFFF8000 := by decide

theorem test_sxtb :
    (after 16 0xB248 (machine 0x100 [(1, 0x180)] [])).map (fun t => t.x32 0)
      = some 0xFFFFFF80 := by decide

theorem test_uxth :
    (after 16 0xB288 (machine 0x100 [(1, 0x12348000)] [])).map (fun t => t.x32 0)
      = some 0x8000 := by decide

theorem test_uxtb :
    (after 16 0xB2C8 (machine 0x100 [(1, 0x180)] [])).map (fun t => t.x32 0)
      = some 0x80 := by decide

theorem test_rev :
    (after 16 0xBA08 (machine 0x100 [(1, 0x11223344)] [])).map (fun t => t.x32 0)
      = some 0x44332211 := by decide

theorem test_rev16 :
    (after 16 0xBA48 (machine 0x100 [(1, 0x11223344)] [])).map (fun t => t.x32 0)
      = some 0x22114433 := by decide

theorem test_revsh :
    (after 16 0xBAC8 (machine 0x100 [(1, 0x80FF)] [])).map (fun t => t.x32 0)
      = some 0xFFFFFF80 := by decide

theorem test_push :
    (after 16 0xB510
      (machine 0x200 [(13, 0x20001000), (4, 0x44), (14, 0x101)] [])).map
      (fun t => (t.mem.readLE 0x20000FF8 4, t.mem.readLE 0x20000FFC 4, t.spMain))
      = some (0x44, 0x101, 0x20000FF8) := by decide

theorem test_pop :
    (after 16 0xBD10
      (machine 0x200 [(13, 0x20000FF8)] (word 0x20000FF8 0x44 ++ word 0x20000FFC 0x101))).map
      (fun t => (t.x32 4, t.spMain, t.pc, t.psr.t))
      = some (0x44, 0x20001000, 0x100, true) := by decide

theorem test_cps_set :
    (after 16 0xB672 (machine 0x100 [] [])).map (fun t => (t.primask, t.faultmask))
      = some (true, false) := by decide

theorem test_cps_set_faultmask :
    (after 16 0xB671 (machine 0x100 [] [])).map (fun t => (t.primask, t.faultmask))
      = some (false, true) := by decide

theorem test_bkpt :
    (after 16 0xBEAB (machine 0x100 [] [])).map (fun t => (t.pc, t.log, t.nvic.pending))
      = some (0x102, [], []) := by decide

theorem test_it :
    (after 16 0xBF0C (machine 0x100 [] [])).map (fun t => (t.psr.itstate, t.psr.currentCond))
      = some (0x0C, 0) := by decide

theorem test_it_advance :
    (after 16 0xBF00
      ((machine 0x100 [] []).setPsr { Psr.mk false false false false false true 0 0 with itstate := 0x0C })).map
      (fun t => (t.psr.itstate, t.psr.currentCond, t.psr.lastInITBlock))
      = some (0x18, 1, true) := by decide

theorem test_nop :
    after 16 0xBF00 (machine 0x100 [] [])
      = some { (machine 0x100 [] []).withFetchWord 16 0xBF00 with pc := 0x102 } := by decide

theorem test_yield :
    after 16 0xBF10 (machine 0x100 [] [])
      = some { (machine 0x100 [] []).withFetchWord 16 0xBF10 with pc := 0x102 } := by decide

theorem test_wfe :
    after 16 0xBF20 (machine 0x100 [] [])
      = some { (machine 0x100 [] []).withFetchWord 16 0xBF20 with pc := 0x102 } := by decide

theorem test_wfi :
    after 16 0xBF30 (machine 0x100 [] [])
      = some { (machine 0x100 [] []).withFetchWord 16 0xBF30 with pc := 0x102 } := by decide

theorem test_sev :
    after 16 0xBF40 (machine 0x100 [] [])
      = some { (machine 0x100 [] []).withFetchWord 16 0xBF40 with pc := 0x102 } := by decide

theorem test_hintUnallocated :
    after 16 0xBF50 (machine 0x100 [] [])
      = some { (machine 0x100 [] []).withFetchWord 16 0xBF50 with pc := 0x102 } := by decide

theorem test_unpredNop16 :
    (after 16 0xB800 (machine 0x100 [] [])).map (fun t => (t.pc, t.log))
      = some (0x102, [.unpredictable 0xB800]) := by decide

theorem test_stm :
    (after 16 0xC006
      (machine 0x100 [(0, 0x20000000), (1, 0xAAAAAAAA), (2, 0xBBBBBBBB)] [])).map
      (fun t => (t.mem.readLE 0x20000000 4, t.mem.readLE 0x20000004 4, t.x32 0))
      = some (0xAAAAAAAA, 0xBBBBBBBB, 0x20000008) := by decide

theorem test_ldm :
    (after 16 0xC806
      (machine 0x100 [(0, 0x20000000)] (word 0x20000000 0xAAAAAAAA ++ word 0x20000004 0xBBBBBBBB))).map
      (fun t => (t.x32 1, t.x32 2, t.x32 0))
      = some (0xAAAAAAAA, 0xBBBBBBBB, 0x20000008) := by decide

theorem test_ldm_base_listed :
    (after 16 0xC803
      (machine 0x100 [(0, 0x20000000)] (word 0x20000000 0xAAAAAAAA ++ word 0x20000004 0xBBBBBBBB))).map
      (fun t => (t.x32 0, t.x32 1))
      = some (0xAAAAAAAA, 0xBBBBBBBB) := by decide

theorem test_bCond_taken :
    (after 16 0xD1FD (machine 0x104 [] [])).map (fun t => t.pc)
      = some 0x102 := by decide

theorem test_bCond_not_taken :
    (after 16 0xD002 (machine 0x100 [] [])).map (fun t => t.pc)
      = some 0x102 := by decide

theorem test_unpredUdf :
    (after 16 0xDEFF (machine 0x100 [] [])).map (fun t => (t.pc, t.log, t.nvic.pending))
      = some (0x102, [.unpredictable 0xDEFF], []) := by decide

theorem test_svc :
    (after 16 0xDF01
      (machine 0x100 [(13, 0x20001000)] (word 44 0x301))).map
      (fun t => (t.pc, t.psr.ipsr, t.mode, t.lr, t.spMain, t.mem.readLE 0x20000FF8 4))
      = some (0x300, 11, .handler, 0xFFFFFFF9, 0x20000FE0, 0x102) := by decide

theorem test_svc_masked :
    (after 16 0xDF01
      ({ (machine 0x100 [(13, 0x20001000)] (word 44 0x301)) with primask := true })).map
      (fun t => (t.pc, t.psr.ipsr, t.nvic.pending))
      = some (0x102, 0, [⟨0, 11⟩]) := by decide

theorem test_b :
    (after 16 0xE7FE (machine 0x100 [] [])).map (fun t => t.pc)
      = some 0x100 := by decide

theorem test_stmW :
    (after 32 0xE8A00006
      (machine 0x100 [(0, 0x20000000), (1, 1), (2, 2)] [])).map
      (fun t => (t.mem.readLE 0x20000000 4, t.mem.readLE 0x20000004 4, t.x32 0))
      = some (1, 2, 0x20000008) := by decide

theorem test_ldmW :
    (after 32 0xE8B00006
      (machine 0x100 [(0, 0x20000000)] (word 0x20000000 1 ++ word 0x20000004 2))).map
      (fun t => (t.x32 1, t.x32 2, t.x32 0))
      = some (1, 2, 0x20000008) := by decide

theorem test_popW :
    (after 32 0xE8BD8FF0
      (machine 0x100 [(13, 0x20000FDC)] (word 0x20000FDC 4 ++ word 0x20000FF8 11 ++ word 0x20000FFC 0x301))).map
      (fun t => (t.x32 4, t.x32 11, t.spMain, t.pc))
      = some (4, 11, 0x20001000, 0x300) := by decide

theorem test_stmdb :
    (after 32 0xE9200006
      (machine 0x100 [(0, 0x20000008), (1, 1), (2, 2)] [])).map
      (fun t => (t.mem.readLE 0x20000000 4, t.mem.readLE 0x20000004 4, t.x32 0))
      = some (1, 2, 0x20000000) := by decide

theorem test_pushW :
    (after 32 0xE92D4FF0
      (machine 0x100 [(13, 0x20001000), (4, 4), (11, 11), (14, 14)] [])).map
      (fun t => (t.mem.readLE 0x20000FDC 4, t.mem.readLE 0x20000FF8 4, t.mem.readLE 0x20000FFC 4, t.spMain))
      = some (4, 11, 14, 0x20000FDC) := by decide

theorem test_ldmdb :
    (after 32 0xE9300006
      (machine 0x100 [(0, 0x20000008)] (word 0x20000000 1 ++ word 0x20000004 2))).map
      (fun t => (t.x32 1, t.x32 2, t.x32 0))
      = some (1, 2, 0x20000000) := by decide

theorem test_ldrex :
    (after 32 0xE8501F00 (machine 0x100 [(0, 0x20000000)] (word 0x20000000 4))).map (fun t => (t.x32 1, t.excl))
      = some (4, [⟨0x20000000, .word, 0⟩]) := by decide

theorem test_strex :
    (after 32 0xE8401200
      ((machine 0x100 [(0, 0x20000000), (1, 5), (2, 9)] []).setExclusive 0x20000000 .word)).map
      (fun t => (t.mem.readLE 0x20000000 4, t.x32 2, t.excl))
      = some (5, 0, []) := by decide

theorem test_strex_unreserved :
    (after 32 0xE8401200
      (machine 0x100 [(0, 0x20000000), (1, 5), (2, 9)] [])).map
      (fun t => (t.mem.readLE 0x20000000 4, t.x32 2))
      = some (0, 1) := by decide

theorem test_strdImm :
    (after 32 0xE9C02302
      (machine 0x100 [(0, 0x20000000), (2, 0x11111111), (3, 0x22222222)] [])).map
      (fun t => (t.mem.readLE 0x20000008 4, t.mem.readLE 0x2000000C 4, t.x32 0))
      = some (0x11111111, 0x22222222, 0x20000000) := by decide

theorem test_ldrdImm :
    (after 32 0xE9D02302
      (machine 0x100 [(0, 0x20000000)] (word 0x20000008 0x11111111 ++ word 0x2000000C 0x22222222))).map
      (fun t => (t.x32 2, t.x32 3, t.x32 0))
      = some (0x11111111, 0x22222222, 0x20000000) := by decide

theorem test_ldrdImm_post_indexed :
    (after 32 0xE8F02302
      (machine 0x100 [(0, 0x20000008)] (word 0x20000008 0x11111111 ++ word 0x2000000C 0x22222222))).map
      (fun t => (t.x32 2, t.x32 3, t.x32 0))
      = some (0x11111111, 0x22222222, 0x20000010) := by decide

theorem test_ldrdLit :
    (after 32 0xE9DF0102 (machine 0x100 [] (word 0x10C 5 ++ word 0x110 6))).map (fun t => (t.x32 0, t.x32 1))
      = some (5, 6) := by decide

theorem test_strexb :
    (after 32 0xE8C01F42
      ((machine 0x100 [(0, 0x20000001), (1, 0x1AB), (2, 9)] []).setExclusive 0x20000001 .byte)).map
      (fun t => (t.mem.readLE 0x20000000 4, t.x32 2, t.excl))
      = some (0xAB00, 0, []) := by decide

theorem test_strexb_size_differs :
    (after 32 0xE8C01F42
      ((machine 0x100 [(0, 0x20000000), (1, 0x1AB), (2, 9)] []).setExclusive 0x20000000 .word)).map
      (fun t => (t.mem.readLE 0x20000000 4, t.x32 2, t.excl))
      = some (0, 1, []) := by decide

theorem test_strexh :
    (after 32 0xE8C01F52
      ((machine 0x100 [(0, 0x20000002), (1, 0x1ABCD), (2, 9)] []).setExclusive 0x20000002 .half)).map
      (fun t => (t.mem.readLE 0x20000000 4, t.x32 2, t.excl))
      = some (0xABCD0000, 0, []) := by decide

theorem test_ldrexb :
    (after 32 0xE8D01F4F (machine 0x100 [(0, 0x20000001)] (word 0x20000000 0xFE00))).map (fun t => (t.x32 1, t.excl))
      = some (0xFE, [⟨0x20000001, .byte, 0⟩]) := by decide

theorem test_ldrexh :
    (after 32 0xE8D01F5F
      (machine 0x100 [(0, 0x20000002)] (word 0x20000000 0x12340000))).map
      (fun t => (t.x32 1, t.excl))
      = some (0x1234, [⟨0x20000002, .half, 0⟩]) := by decide

theorem test_tbb :
    (after 32 0xE8DFF000 (machine 0x100 [(0, 2)] (word 0x104 0x090502))).map (fun t => t.pc)
      = some 0x116 := by decide

theorem test_tbh :
    (after 32 0xE8D0F011 (machine 0x100 [(0, 0x200), (1, 1)] (word 0x200 0x100000))).map (fun t => t.pc)
      = some 0x124 := by decide

theorem test_unpredNop32 :
    (after 32 0xE8D01F7F (machine 0x100 [(0, 1)] [])).map (fun t => (t.pc, t.x32 1, t.log))
      = some (0x104, 0, [.unpredictable 0xE8D01F7F]) := by decide

/-! ### Environment operations (rules R139 to R154, R325, R330, examples of theirs) -/

theorem test_ssat :
    let t := aluOp (.ssat 0 1 16 (.lsl 0)) (machine 0x100 [(1, 0x00012345)] [])
    (t.x32 0, t.psr.q) = (0x00007FFF, true) := by decide

theorem test_usat :
    let t := aluOp (.usat 0 1 8 (.lsl 0)) (machine 0x100 [(1, 0xFFFFFFFF)] [])
    (t.x32 0, t.psr.q) = (0, true) := by decide

theorem test_qadd8 :
    let t := aluOp (.qadd8 0 1 2) (machine 0x100 [(1, 0x7F01807F), (2, 0x0101FF01)] [])
    (t.x32 0, t.psr.q) = (0x7F02807F, true) := by decide

theorem test_qadd16 :
    let t := aluOp (.qadd16 0 1 2) (machine 0x100 [(1, 0x7FFF8000), (2, 0x0001FFFF)] [])
    (t.x32 0, t.psr.q) = (0x7FFF8000, true) := by decide

theorem test_clrex : (aluOp .clrex ((machine 0x100 [] []).setExclusive 0x20000000 .word)).excl = [] := by decide

/-! ### Cases that meet the obligations' hypotheses -/

/-- The machine the cases use: SP at 0x20001000, some registers, a few words. -/
def base : State :=
  machine 0x100 [(0, 0x20000000), (1, 1), (2, 2), (3, 0x401), (13, 0x20001000), (14, 0x101)]
    (word 0x20000000 4 ++ word 0x20000004 5)

/-- The machine inside an IT block of two, the first of which is next and fails (EQ with Z = 0). -/
def inBlock : State := base.setPsr { base.psr with itstate := 0x04 }

/-- The machine in the handler of exception 11, entered from Thread mode. -/
def handler : State :=
  match base.takeException 11 with
  | .next t => t
  | _ => base

/-- An ALUOP operation runs under the current condition (40_alu_primitives.md section 6, R15, R98). -/
theorem test_aluOp_condition :
    (aluOp .clrex (inBlock.setExclusive 0x20000000 .word)).excl = [⟨0x20000000, .word, 0⟩] ∧
      (aluOp (.ssat 4 3 8 (.lsl 0)) inBlock).x32 4 = 0 := by decide

theorem handler_eq : base.takeException 11 = .next handler := rfl

/-- The machine with no memory at all. -/
def unmapped : State := { base with regions := [] }

/-- The machine with ROM at 0x20000004 above a word of RAM. -/
def romAbove : State :=
  { base with regions := [⟨0, 0x20000004, .ram, true, true⟩, ⟨0x20000004, 0x1000, .rom, true, false⟩] }

/-- The machine with nothing readable from 0x20000004. -/
def holeAbove : State := { base with regions := [⟨0, 0x20000004, .ram, true, true⟩] }

theorem inv_of_reset_fields {s : State} (hn : s.params.nvec = 16) (hv : s.nvic.vt.length = 16)
    (ha : s.nvic.active.length = 16) (hp : s.nvic.pri = resetPri 16) (hs : s.nvic.activeStack = [])
    (hd : s.nvic.nested = 0) (hq : s.nvic.pending = []) (hpc : s.pc.getLsbD 0 = false)
    (hm : s.spMain.extractLsb' 0 2 = 0#2) (hr : s.spProcess.extractLsb' 0 2 = 0#2) (hw : s.mem.wf = true)
    (he : s.excl = []) : Inv s where
  nvecRange := by rw [hn]; decide
  vtLength := by rw [hv, hn]
  priLength := by rw [hp, hn]; decide
  activeLength := by rw [ha, hn]
  priFixed := by rw [hp]; decide
  priRange := by
    intro n r h4 h
    rw [hp] at h
    have hlen : n < 16 := by
      have := (List.getElem?_eq_some_iff.mp h).1
      simpa [resetPri] using this
    interval_cases n <;> simp [resetPri] at h
  nestedDepth := by rw [hd, hs]; rfl
  stackCapacity := by rw [hs]; simp
  stackNumbers := by rw [hs]; simp
  pendingCapacity := by rw [hq]; simp
  pendingKeys := by rw [hq]; simp
  pendingOrder := by rw [hq]; simp
  threadIdle := fun _ => hs
  pcEven := hpc
  spMainAligned := hm
  spProcessAligned := hr
  memoryForm := hw
  exclOrder := by rw [he]; simp
  exclOwner := by rw [he]; simp

theorem inv_base : Inv base :=
  inv_of_reset_fields rfl (by decide) (by decide) (by decide) (by decide) (by decide) (by decide) (by decide) (by decide)
    (by decide) (by decide) (by decide)

theorem witness_DecodeOfEncodeIsIdentity :
    (Instr.it 15 15).wellFormed = true ∧ (Instr.unpredNop32 0xFFFF 0).wellFormed = true := by decide

theorem witness_StepKeepsInvariant : Inv base ∧ ∃ t, step (base.withFetchWord 16 0x3101) = .next t :=
  ⟨inv_base, _, rfl⟩

theorem witness_EntryThenReturnRestoresState :
    Inv base ∧ base.nvic.active[11]? = some false ∧ (base.mode = .thread ↔ base.psr.ipsr = 0#9) ∧
      (base.mode = .handler → base.spsel = false) ∧ base.wordsReadable (framePointer base.sp) 8 ∧
      base.wordsPlain (framePointer base.sp) 8 ∧ ∃ t, base.takeException 11 = .next t :=
  ⟨inv_base, by decide, by decide, by decide, by unfold State.wordsReadable; decide,
    by unfold State.wordsPlain; decide, _, rfl⟩

theorem witness_EveryThreadModeInstructionCompletes : base.mode = .thread := by decide

theorem witness_ThreadModeIsLeftOnlyByTheCheck : base.mode = .thread ∧ ∃ t, exec (.svc 1) base = .next t :=
  ⟨by decide, _, rfl⟩

theorem witness_OnlyCpsWritesTheMasks :
    (∃ t, exec (.bx 14 0) handler = .next t) ∧ ∀ im sb i f, Instr.bx 14 0 ≠ .cps im sb i f :=
  ⟨⟨_, rfl⟩, by simp⟩

theorem witness_StepRunsDecodedInstruction :
    let s := base.withFetchWord 32 0xE8501F00
    s.idle = false ∧ s.psr.t = true ∧ s.readable s.pc .half = true ∧ s.isDevice s.pc .half = false ∧
      s.readable (s.pc + 2) .half = true ∧ s.isDevice (s.pc + 2) .half = false ∧
      decode [s.mem.readByte s.pc.toNat, s.mem.readByte (s.pc.toNat + 1), s.mem.readByte (s.pc + 2).toNat,
        s.mem.readByte ((s.pc + 2).toNat + 1)] = .ok (.ldrex 0 1 15 0, []) := by decide

theorem witness_StepRunsDecodedInstruction_16 :
    let s := base.withFetchWord 16 0x0848
    decode [s.mem.readByte s.pc.toNat, s.mem.readByte (s.pc.toNat + 1), s.mem.readByte (s.pc + 2).toNat,
        s.mem.readByte ((s.pc + 2).toNat + 1)] = .ok (.lsrImm 1 1 0, [0, 0]) := by decide

theorem witness_CyclesWithoutAnInstruction :
    ({ base with halting := true }.halting = true) ∧ ({ base with halted := true }.halted = true) ∧
      (let s := base.setPsr { base.psr with t := false }
       s.halting = false ∧ s.halted = false ∧ s.psr.t = false) ∧
      unmapped.halting = false ∧ unmapped.halted = false ∧ unmapped.psr.t = true ∧
      unmapped.readable unmapped.pc .half = false ∧
      (let s := { base with pc := 0x200, regions := [⟨0, 0x202, .ram, true, true⟩] }
       s.readable s.pc .half = true ∧ s.readable (s.pc + 2) .half = false) := by decide

theorem witness_ResetGivesSpecifiedValues :
    Config.minNvec ≤ 16 ∧
      (State.resetWith ⟨16, .any, true⟩ [⟨0, 64, .ram, false, true⟩] Memory.empty 0).nvic.vt[15]? = some 0 ∧
      (State.resetWith ⟨16, .any, true⟩ [] Memory.empty 0).nvic.vt[15]? = some 0 ∧
      findRegion [] (4 * 15) 4 = none ∧ findRegion wholeSpace (4 * 15) 4 = some ⟨0, 2 ^ 32, .ram, true, true⟩ ∧
      findRegion [⟨0, 64, .ram, false, true⟩] (4 * 15) 4 = some ⟨0, 64, .ram, false, true⟩ := by decide

theorem witness_EnvironmentActionsKeepInvariant :
    Inv base ∧ ∀ a, EnvAction.setRawPc 0x200 = .setRawPc a → a.getLsbD 0 = false :=
  ⟨inv_base, by rintro a ⟨⟩; decide⟩

theorem witness_ImmediateShiftResults :
    base.psr.conditionPassed = true ∧ (0#5 : BitVec 5) = 0#5 ∧ (31#5 : BitVec 5) ≠ 0#5 := by decide

theorem witness_RegisterShiftResults :
    base.psr.conditionPassed = true ∧ (base.x32 (lo 3)).toNat % 256 = 1 ∧ (base.x32 (lo 0)).toNat % 256 = 0 := by decide

theorem witness_AddSubtractResults : base.psr.conditionPassed = true := by decide

theorem witness_CarryArithmeticResults : base.psr.conditionPassed = true := by decide

theorem witness_CompareAndTestResults : base.psr.conditionPassed = true := by decide

/-- The machine inside an IT block whose next instruction runs (NE with Z = 0), first of two. -/
def inBlockPassing : State := base.setPsr { base.psr with itstate := 0x1C }

/-- The machine at the last instruction of an IT block, which runs. -/
def lastOfBlock : State := base.setPsr { base.psr with itstate := 0x18 }

theorem witness_LogicMoveMultiplyResults :
    base.psr.conditionPassed = true ∧ base.psr.inITBlock = false ∧ inBlockPassing.psr.conditionPassed = true ∧
      inBlockPassing.psr.inITBlock = true := by decide

theorem witness_HighRegisterResults :
    base.psr.conditionPassed = true ∧ 8 ≤ (8#4 : RegNum).toNat ∧ inBlockPassing.psr.conditionPassed = true ∧
      inBlockPassing.psr.inITBlock = true ∧ inBlockPassing.psr.lastInITBlock = false ∧
      lastOfBlock.psr.conditionPassed = true ∧ lastOfBlock.psr.lastInITBlock = true := by decide

theorem witness_BranchExchangeResults :
    base.psr.conditionPassed = true ∧
      ¬(base.mode = .handler ∧ (base.x16 14).getLsbD 0 = true ∧ (base.x16 14).extractLsb' 28 4 = 0xF#4) ∧
      handler.psr.conditionPassed = true ∧
      ¬(handler.mode = .handler ∧ (handler.x16 3).getLsbD 0 = true ∧ (handler.x16 3).extractLsb' 28 4 = 0xF#4) := by
  decide

theorem witness_SingleLoadResults :
    base.psr.conditionPassed = true ∧ base.readable 0xFFFFFFFC .word = true ∧
      base.readable 0xFFFFFFFD .word = false := by decide

theorem witness_SingleStoreResults :
    base.psr.conditionPassed = true ∧ base.writable 0xFFFFFFFC .word = true ∧
      romAbove.psr.conditionPassed = true ∧ romAbove.writable 0x20000004 .word = false := by decide

theorem witness_AddressAndStackAdjustResults : base.psr.conditionPassed = true := by decide

theorem witness_CompareBranchResults :
    inBlock.psr.inITBlock = true ∧ base.psr.inITBlock = false ∧ base.x32 (lo 7) = 0#32 ∧ base.x32 (lo 1) ≠ 0#32 := by
  decide

theorem witness_ExtendAndReverseResults : base.psr.conditionPassed = true := by decide

theorem witness_StoreMultipleResults :
    StoreForm base (.stm 0 1) [0] 0x20000000 (some (0, 0x20000004)) ∧
      StoreForm base (.push true 0) [14] 0x20000FFC (some (13, 0x20000FFC)) ∧
      StoreForm base (.strdImm false true true 0 1 2 1) [1, 2] 0x20000000 (some (0, 0x20000004)) ∧
      base.psr.conditionPassed = true ∧ (0x20000000#32).toNat % 4 = 0 ∧ base.wordsWritable 0x20000000 2 ∧
      base.wordsWritable 0x20000FFC 1 :=
  ⟨.stm 0 1 (by decide), .push true 0 _ (by decide) (by decide), .strd false true true 0 1 2 1 _ (by decide) (by decide)
    (by decide) (by decide) (by decide), by decide, by decide, by unfold State.wordsWritable; decide,
    by unfold State.wordsWritable; decide⟩

theorem witness_StoreMultipleResults_wide :
    StoreForm base (.stmW true 0 false false false 6) [1, 2] 0x20000000 (some (0, 0x20000008)) ∧
      StoreForm base (.stmdb false 0 false false false 6) [1, 2] 0x1FFFFFF8 none ∧
      StoreForm base (.pushW false true false 2) [1, 14] 0x20000FF8 (some (13, 0x20000FF8)) ∧
      base.wordsWritable 0x1FFFFFF8 2 ∧ base.wordsWritable 0x20000FF8 2 :=
  ⟨.stmW true 0 false false false 6 (by decide) (by decide) (by decide),
    .stmdb false 0 false false false 6 _ (by decide) (by decide) (by decide) (by decide),
    .pushW false true false 2 _ (by decide) (by decide), by unfold State.wordsWritable; decide,
    by unfold State.wordsWritable; decide⟩

theorem witness_LoadMultipleResults :
    LoadForm base (.ldm 0 1) [0] false 0x20000000 none ∧
      LoadForm base (.pop false 1) [0] false 0x20001000 (some (13, 0x20001004)) ∧
      LoadForm base (.popW false false false 3) [0, 1] false 0x20001000 (some (13, 0x20001008)) ∧
      LoadForm base (.ldmW true 0 false false false 6) [1, 2] false 0x20000000 (some (0, 0x20000008)) ∧
      LoadForm base (.ldmdb true 0 false false false 6) [1, 2] false 0x1FFFFFF8 (some (0, 0x1FFFFFF8)) ∧
      base.psr.conditionPassed = true ∧ (0x20000000#32).toNat % 4 = 0 ∧ base.wordsReadable 0x20000000 2 ∧
      base.wordsReadable 0x20001000 2 ∧ base.wordsReadable 0x1FFFFFF8 2 :=
  ⟨.ldm 0 1 (by decide), .pop false 1 (by decide) (by simp), .popW false false false 3 (by decide) (by simp) (by simp),
    .ldmW true 0 false false false 6 (by decide) (by decide) (by decide) (by simp) (by simp),
    .ldmdb true 0 false false false 6 _ (by decide) (by decide) (by decide) (by simp) (by simp) (by decide),
    by decide, by decide, by unfold State.wordsReadable; decide, by unfold State.wordsReadable; decide,
    by unfold State.wordsReadable; decide⟩

theorem witness_LoadMultipleResults_dual :
    LoadForm base (.ldrdImm true false false 0 1 2 1) [1, 2] false 0x1FFFFFFC none ∧
      LoadForm base (.ldrdLit true true false 1 2 0) [1, 2] false 0x100 none ∧
      base.wordsReadable 0x1FFFFFFC 2 ∧ base.wordsReadable 0x100 2 :=
  ⟨.ldrd true false false 0 1 2 1 _ (by decide) (by decide) (by decide) (by decide) (by decide) (by decide),
    .ldrdLit true true 1 2 0 (by decide) (by decide) (by decide), by unfold State.wordsReadable; decide,
    by unfold State.wordsReadable; decide⟩

theorem witness_LoadOfThePcBranches :
    LoadForm base (.pop true 0) [] true base.sp (some (13, 0x20001004)) ∧ base.psr.conditionPassed = true ∧
      base.sp.toNat % 4 = 0 ∧ base.loadRegs base.sp [] = .ok [] base ∧ base.readable (wordAt base.sp 0) .word = true ∧
      ¬(base.mode = .handler ∧ (base.readValue (wordAt base.sp 0) .word).getLsbD 0 = true ∧
        (base.readValue (wordAt base.sp 0) .word).extractLsb' 28 4 = 0xF#4) :=
  ⟨.pop true 0 (by decide) (by unfold State.midIT; decide), by decide, by decide, rfl, by decide, by decide⟩

theorem witness_LoadOfThePcBranches_wide :
    LoadForm base (.ldmW true 0 true false false 2) [1] true 0x20000000 (some (0, 0x20000008)) ∧
      LoadForm base (.ldmdb true 0 true false false 2) [1] true 0x1FFFFFF8 (some (0, 0x1FFFFFF8)) ∧
      LoadForm base (.popW true false false 2) [1] true base.sp (some (13, 0x20001008)) ∧
      base.loadRegs 0x20000000 [1] = .ok [(1, 4)] base :=
  ⟨.ldmW true 0 true false false 2 (by decide) (by decide) (by decide) (by decide) (by unfold State.midIT; decide),
    .ldmdb true 0 true false false 2 _ (by decide) (by decide) (by decide) (by decide) (by unfold State.midIT; decide)
      (by decide),
    .popW true false false 2 (by decide) (by decide) (by unfold State.midIT; decide), rfl⟩

theorem witness_RefusedWordsOfMultipleTransfers :
    romAbove.psr.conditionPassed = true ∧ (0x20000000#32).toNat % 4 = 0 ∧
      StoreForm romAbove (.stm 0 6) [1, 2] 0x20000000 (some (0, 0x20000008)) ∧ romAbove.wordsWritable 0x20000000 1 ∧
      romAbove.wordsPlain 0x20000000 1 ∧ romAbove.writable (wordAt 0x20000000 1) .word = false ∧
      holeAbove.psr.conditionPassed = true ∧
      LoadForm holeAbove (.ldmW false 0 true false false 2) [1] true 0x20000000 none ∧
      holeAbove.wordsReadable 0x20000000 1 ∧ holeAbove.readable (wordAt 0x20000000 1) .word = false :=
  ⟨by decide, by decide, .stm 0 6 (by decide), by unfold State.wordsWritable; decide, by unfold State.wordsPlain; decide,
    by decide, by decide,
    .ldmW false 0 true false false 2 (by decide) (by decide) (by decide) (by decide) (by unfold State.midIT; decide),
    by unfold State.wordsReadable; decide, by decide⟩

theorem witness_MisalignedTransfersAreLoggedNoOps :
    base.psr.conditionPassed = true ∧ (1#32).toNat % 4 ≠ 0 ∧ StoreForm base (.stm 1 4) [2] 1 (some (1, 5)) ∧
      LoadForm base (.ldrdImm true true false 1 0 2 0) [0, 2] false 1 none :=
  ⟨by decide, by decide, .stm 1 4 (by decide),
    .ldrd true true false 1 0 2 0 _ (by decide) (by decide) (by decide) (by decide) (by decide) (by decide)⟩

theorem witness_TransferRestrictionsOnlyLog :
    (Instr.stm 0 0).wellFormed = true ∧ transfersWords (.stm 0 0) = true ∧
      (Instr.ldrdLit true true true 0 1 0).wellFormed = true ∧ transfersWords (.ldrdLit true true true 0 1 0) = true := by
  decide

theorem witness_BranchResults :
    (13#4 : BitVec 4) ≠ 14#4 ∧ (13#4 : BitVec 4) ≠ 15#4 ∧ base.psr.inITBlock = false ∧ inBlock.psr.inITBlock = true ∧
      base.psr.conditionHolds 1 = true ∧ base.psr.conditionHolds 0 = false ∧ inBlock.psr.lastInITBlock = false ∧
      base.psr.conditionPassed = true ∧ lastOfBlock.psr.lastInITBlock = true := by decide

theorem witness_ConditionsAndItBlocks :
    (1#4 : BitVec 4) ≠ 0#4 ∧ (8#4 : BitVec 4) ≠ 0#4 ∧ (1#4 : BitVec 4) <<< 3 ≠ 0#4 ∧ (1#4 : BitVec 4) <<< 4 = 0#4 ∧
      (8#4 : BitVec 4) <<< 1 = 0#4 := by decide

theorem witness_SupervisorCallPendsSvcall :
    base.psr.conditionPassed = true ∧ 12 ≤ base.params.nvec ∧ base.nvic.pending.length < base.params.nvec ∧
      ¬(List.replicate 16 (PendingKey.mk 0 4)).length < base.params.nvec := by decide

theorem witness_CpsWritesTheMasks :
    base.psr.conditionPassed = true ∧ base.psr.inITBlock = false ∧ inBlockPassing.psr.conditionPassed = true ∧
      inBlockPassing.psr.inITBlock = true ∧ { base with faultmask := true }.executionPriority = -1 ∧
      base.executionPriority > -1 := by decide

theorem witness_ItStartsTheBlock :
    (14#4 : BitVec 4) = 14#4 ∧ (6#4 : BitVec 4) ∉ [1#4, 2#4, 4#4, 8#4] ∧ (8#4 : BitVec 4) ≠ 0#4 ∧
      base.psr.inITBlock = false := by decide

theorem witness_HintsAndBreakpointsChangeNothing : (5#4 : BitVec 4) ∉ [0#4, 1#4, 2#4, 3#4, 4#4] := by decide

theorem witness_ItRestrictionsOnlyLog : inBlock.psr.inITBlock = true ∧ inBlock.psr.lastInITBlock = false := by decide

theorem witness_FailedConditionDoesNothing :
    inBlock.psr.conditionPassed = false ∧ ∀ c m, Instr.svc 1 ≠ .bCond c m := ⟨by decide, by simp⟩

theorem witness_ExclusiveLoadResults :
    base.psr.conditionPassed = true ∧ ¬((1#4 : RegNum) = 13#4 ∨ (1#4 : RegNum) = 15#4 ∨ (0#4 : RegNum) = 15#4) ∧
      (base.x32 0).toNat % 4 = 0 ∧ (base.x32 1).toNat % Size.word.bytes ≠ 0 ∧
      (base.x32 1).toNat % Size.half.bytes ≠ 0 ∧ base.readable (base.x32 0) .word = true ∧
      unmapped.readable (unmapped.x32 0) .word = false := by decide

theorem witness_ExclusiveStoreResults :
    base.psr.conditionPassed = true ∧
      (let s := romAbove.setExclusive 0x20000004 .word
       s.excl = [⟨0x20000004, .word, 0⟩] ∧ s.writable 0x20000004 .word = false) ∧
      (let s := base.setExclusive 0x20000000 .word
       s.excl = [⟨0x20000000, .word, 0⟩] ∧ s.writable 0x20000000 .word = true) ∧ base.excl = [] ∧
      ¬((3#4 : RegNum) = 13#4 ∨ (3#4 : RegNum) = 15#4 ∨ (2#4 : RegNum) = 13#4 ∨ (2#4 : RegNum) = 15#4 ∨
        (1#4 : RegNum) = 15#4 ∨ (3#4 : RegNum) = 1#4 ∨ (3#4 : RegNum) = 2#4) ∧
      (base.x32 1).toNat % Size.word.bytes ≠ 0 ∧ (base.x32 1).toNat % Size.half.bytes ≠ 0 := by decide

theorem witness_LdrexStrexForwardProgress :
    base.psr.conditionPassed = true ∧ ldrexUnpredictable 0 1 = false ∧ strexUnpredictable 0 1 2 = false ∧
      (0#4 : RegNum) ≠ 1#4 ∧ (base.x32 0 + (0#8 ++ 0#2).setWidth 32).toNat % 4 = 0 ∧
      base.readable (base.x32 0 + (0#8 ++ 0#2).setWidth 32) .word = true ∧
      base.writable (base.x32 0 + (0#8 ++ 0#2).setWidth 32) .word = true := by decide

theorem witness_TableBranchResults :
    base.psr.conditionPassed = true ∧ base.readable (base.x32 0 + base.x32 1) .byte = true ∧
      base.readable (base.x32 0 + (base.x32 1 <<< 1)) .half = true ∧ unmapped.psr.conditionPassed = true ∧
      unmapped.readable 0 .byte = false ∧ inBlockPassing.psr.conditionPassed = true ∧
      inBlockPassing.psr.inITBlock = true ∧ inBlockPassing.psr.lastInITBlock = false := by decide

theorem witness_ExceptionEntryResults :
    base.nvic.activeStack.length < base.params.nvec ∧ base.sp.toNat % 4 = 0 ∧ base.sp.getLsbD 2 = false ∧
      base.wordsWritable (base.sp - 32) 8 ∧ base.wordsPlain (base.sp - 32) 8 ∧
      (let s := base.setSp 0x20000FFC
       s.sp.toNat % 4 = 0 ∧ s.sp.getLsbD 2 = true ∧ s.wordsWritable (s.sp - 36) 8) := by
  unfold State.wordsWritable State.wordsPlain; decide

theorem witness_ExceptionReturnsAreDetected :
    handler.psr.conditionPassed = true ∧ handler.mode = .handler ∧ ¬handler.midIT ∧
      (handler.x16 14).getLsbD 0 = true ∧ (handler.x16 14).extractLsb' 28 4 = 0xF#4 ∧
      (let s := handler.setMem (handler.mem.writeLE handler.sp.toNat 0xFFFFFFF9 4)
       s.psr.conditionPassed = true ∧ s.mode = .handler ∧
         LoadForm s (.pop true 0) [] true s.sp (some (13, s.sp + 4)) ∧ s.loadRegs s.sp [] = .ok [] s ∧
         s.loadA (wordAt s.sp 0) .word = .ok 0xFFFFFFF9 s) :=
  ⟨by decide, by decide, by unfold State.midIT; decide, by decide, by decide, by decide, by decide,
    .pop true 0 (by decide) (by unfold State.midIT; decide), rfl, rfl⟩

theorem witness_ExceptionReturnResults :
    (∀ x ∈ [(0x1#4, Mode.handler, false), (0x9#4, Mode.thread, false), (0xD#4, Mode.thread, true)],
        ((0xFFFFFFF0#32 ||| x.1.setWidth 32).extractLsb' 0 4, x.2.1, x.2.2) = x) ∧
      handler.nvic.activeStack.getLast? = some 11 ∧ handler.nvic.active[11]? = some true ∧ handler.nvic.nested = 1 ∧
      handler.spMain.toNat % 4 = 0 ∧ handler.spProcess.toNat % 4 = 0 ∧ handler.wordsReadable handler.spMain 8 ∧
      handler.wordsPlain handler.spMain 8 ∧ handler.wordsReadable handler.spProcess 8 ∧
      handler.wordsPlain handler.spProcess 8 := by
  unfold State.wordsReadable State.wordsPlain; decide

/-- The contradictory return: the frame holds IPSR 0 and the value names Handler mode, with room, a full store, NVEC 6. -/
theorem witness_ExceptionReturnResults_mismatch :
    (0xFFFFFFF1#32).extractLsb' 0 4 = 0x1#4 ∧
      (Psr.ofWord (handler.mem.readLE (wordAt handler.spMain 7).toNat 4)).ipsr = 0#9 ∧
      7 ≤ handler.params.nvec ∧ handler.nvic.pending.length < handler.params.nvec ∧
      (let s := handler.setNvic { handler.nvic with pending := List.replicate 16 ⟨0, 4⟩ }
       s.nvic.activeStack.getLast? = some 11 ∧ s.nvic.active[11]? = some true ∧
         ¬s.nvic.pending.length < s.params.nvec) ∧
      (let s := { handler with params := { handler.params with nvec := 6 } }
       s.nvic.activeStack.getLast? = some 11 ∧ s.nvic.active[11]? = some true ∧ ¬7 ≤ s.params.nvec) := by decide

theorem witness_FailedReturnPendsUsageFault :
    (0xFFFFFFF0#32).extractLsb' 0 4 ∉ [0x1#4, 0x9#4, 0xD#4] ∧ base.nvic.activeStack = [] ∧
      (let s := handler.setNvic { handler.nvic with active := List.replicate 16 false }
       s.nvic.activeStack.getLast? = some 11 ∧ s.nvic.active.getD 11 false = false) ∧
      (let s := handler.setNvic { handler.nvic with nested := 2 }
       (0xFFFFFFF9#32).extractLsb' 0 4 ≠ 0x1#4 ∧ s.nvic.nested ≠ 1) := by decide

/-- The boundaries of R330's two refusals: n = 1, 2, NVEC - 1, NVEC, and a store with one place left and with none. -/
theorem witness_ThrowExceptionResults :
    let almost := base.setNvic { base.nvic with pending := List.replicate 15 ⟨0, 4⟩ }
    let full := base.setNvic { base.nvic with pending := List.replicate 16 ⟨0, 4⟩ }
    base.params.nvec = 16 ∧ base.throwException 1 = base.emit (.dropped 1) ∧
      (base.throwException 2).nvic.pending = [⟨-2, 2⟩] ∧ (base.throwException 15).nvic.pending = [⟨0, 15⟩] ∧
      base.throwException 16 = base.emit (.dropped 16) ∧ (almost.throwException 4).nvic.pending = List.replicate 16 ⟨0, 4⟩ ∧
      full.throwException 4 = full.emit (.dropped 4) := by decide

theorem witness_GroupPriorityArithmetic :
    255 < 256 ∧ (-1 : Int) < 0 ∧ 0 ≤ base.nvic.raw 4 ∧ base.nvic.raw 3 < 0 := by decide

theorem witness_MasksGatePreemption :
    base.params.maskGating = true ∧ (255 : Int) ≤ 255 ∧ base.preempts 255 = true ∧
      { base with faultmask := true }.preempts (-1) = false ∧ { base with faultmask := true }.preempts (-2) = true ∧
      { base with primask := true }.preempts 0 = false ∧ { base with primask := true }.preempts (-1) = true ∧
      { base with basepri := 0x20 }.preempts 0x20 = false ∧ { base with basepri := 0x20 }.preempts 0x1E = true := by
  decide

/-- Without mask gating: Thread mode, Handler mode with exception 11 (priority 0) innermost, and with nothing active. -/
theorem witness_MasksGatePreemption_ungated :
    let open' (s : State) : State := { s with params := { s.params with maskGating := false }, faultmask := true }
    (open' base).params.maskGating = false ∧ (open' base).preempts 255 = true ∧ (open' handler).mode = .handler ∧
      (open' handler).preempts (-1) = true ∧ (open' handler).preempts 0 = false ∧
      { open' base with mode := .handler }.preempts 255 = true := by decide

theorem witness_CheckTakesTheMostUrgent :
    let s := base.throwException 11
    (∀ j ∈ s.nvic.pending, j.vector < 512) ∧ (∃ t, s.checkException = some (11, t)) ∧ base.checkException = none :=
  ⟨by decide, ⟨_, rfl⟩, rfl⟩

theorem witness_SaturatingOperationResults :
    (AluOp.ssat 0 1 32 (.asr 31)).valid = true ∧ (AluOp.ssat 0 1 1 (.lsl 31)).valid = true ∧
      (AluOp.usat 14 12 0 (.lsl 0)).valid = true ∧ (AluOp.usat 0 1 31 (.asr 1)).valid = true ∧
      (AluOp.qadd8 0 1 2).valid = true ∧ (AluOp.qadd16 14 14 14).valid = true ∧ base.psr.conditionPassed = true ∧
      inBlock.psr.conditionPassed = false ∧ (AluOp.ssat 0 1 33 (.lsl 0)).valid = false ∧
      (AluOp.qadd8 13 1 2).valid = false := by decide


end Sys2Proof.Tests
end

section
/-! The SYSREG port (00_scope.md R8): a special register reads back the bits it has, and a write reaches no other. -/

namespace Sys2Proof.Machine

/-! ### What a field of the state shows of the word it was cut from -/

/-- A one-bit register at bit 0 (R35, R36). -/
theorem zext_bit_zero (v : Word) : zext (bit (v.getLsbD 0)) = v &&& 1#32 := by
  rw [BitVec.and_one_eq_setWidth_ofBool_getLsbD]
  rfl

/-- A one-bit register at bit 1, with a zero below it (R38). -/
theorem zext_bit_one (v : Word) : zext (bit (v.getLsbD 1) ++ 0#1) = v &&& 2#32 := by
  have hbit : v &&& 2#32 = v &&& BitVec.twoPow 32 1 := rfl
  rw [hbit, BitVec.and_twoPow]
  unfold zext bit
  cases v.getLsbD 1 <;> rfl

/-- A byte-wide register (R37). -/
theorem zext_lowByte (v : Word) : zext (v.extractLsb' 0 8) = v &&& 0xFF#32 := by
  have hmask : (0xFF#32).toNat = 2 ^ 8 - 1 := rfl
  apply BitVec.eq_of_toNat_eq
  rw [BitVec.toNat_and, hmask, Nat.and_two_pow_sub_one_eq_mod]
  simp only [zext, BitVec.toNat_setWidth, BitVec.extractLsb'_toNat, Nat.shiftRight_zero]
  omega

/-! ### Reading after writing -/

/-- The bits a special register has (R24, R35 to R38). -/
def SpecialReg.bits : SpecialReg → Word
  | .primask | .faultmask => 1#32
  | .basepri => 0xFF#32
  | .control => 2#32
  | .spMain | .spProcess => 0xFFFFFFFC#32

theorem State.readSpecial_writeSpecial_same (s : State) (r : SpecialReg) (v : Word) :
    (s.writeSpecial r v).readSpecial r = v &&& r.bits := by
  cases r with
  | primask => exact zext_bit_zero v
  | faultmask => exact zext_bit_zero v
  | basepri => exact zext_lowByte v
  | control => exact zext_bit_one v
  | spMain => rfl
  | spProcess => rfl

/-- Each register reads a field of its own. -/
theorem State.readSpecial_writeSpecial_ne (s : State) {r r' : SpecialReg} (hne : r' ≠ r) (v : Word) :
    (s.writeSpecial r v).readSpecial r' = s.readSpecial r' := by
  revert hne
  cases r <;> cases r' <;> simp [State.writeSpecial, State.readSpecial]

/-- Settles O57: the register written by its bits, the others by their fields, and the frame register by register. -/
theorem specialRegisterReadback : Obligations.SpecialRegisterReadback := by
  intro s r r' v
  refine ⟨?_, by cases r <;> rfl⟩
  by_cases h : r' = r
  · subst h
    rw [if_pos rfl, State.readSpecial_writeSpecial_same]
    cases r' <;> rfl
  · rw [if_neg h, State.readSpecial_writeSpecial_ne s h]

end Sys2Proof.Machine
end

section
/-! What an instruction may do to the state, said once: `Edit` lists the single changes, `Edits` their sequences, and
`exec_edited` shows that every instruction that completes is such a sequence. The invariant and the noninterference
claims of 10_state.md each follow by checking the single changes. -/

namespace Sys2Proof.Machine

/-! ### The single changes -/

/-- One change that the instruction `i` may make to a state. The masks belong to CPS alone (R265), the mode and the
active records to a validated exception return in Handler mode (R339, R340). -/
inductive Edit (i : Instr) (s : State) : State → Prop where
  | gpr (g : Vector Word 13) : Edit i s (s.setGpr g)
  | spMain (v : Word) : Edit i s { s with spMain := spMask v }
  | spProcess (v : Word) : Edit i s { s with spProcess := spMask v }
  | lr (v : Word) : Edit i s (s.setLr v)
  | pc (a : Word) : Edit i s (s.setPc (clearBit0 a))
  | psr (p : Psr) : p.ipsr = s.psr.ipsr → Edit i s (s.setPsr p)
  | itStarted : Edit i s { s with itNew := true }
  | stored (m : Memory) : (s.mem.wf = true → m.wf = true) → Edit i s (s.setMem m)
  | noted (ix : Nat) (l : List LogEvent) : Edit i s { s with freeIx := ix, log := l }
  | reserved (a : Word) (sz : Size) : Edit i s (s.setExclusive a sz)
  | consumed (a : Word) (sz : Size) : Edit i s (s.consumeExclusive a sz)
  | pended (n : Nat) : s.throwAccepted n = true → Edit i s (s.setNvic
      { s.nvic with pending := insertKey { gp := s.nvic.groupPri n, vector := n } s.nvic.pending })
  | masked (im : Bool) (sb : BitVec 2) (ip fm : Bool) : i = .cps im sb ip fm → Edit i s (cpsMasks im ip fm s)
  | returned (a : Word) (target : Mode) (process : Bool) (r : Nat) (fp : Word) (ws : List Word) : s.mode = .handler →
      s.validateReturn a = some (target, process, r) → Edit i s (s.restoreFrame target process r fp ws)

/-- A sequence of changes. -/
abbrev Edits (i : Instr) : State → State → Prop := Relation.ReflTransGen (Edit i)

variable {i : Instr} {s t u : State}

theorem Edit.edits (h : Edit i s t) : Edits i s t := .single h

/-- What every single change keeps, every sequence of changes keeps. -/
theorem Edits.keep {P : State → Prop} (h : Edits i s t) (hP : ∀ s t, Edit i s t → P s → P t) (hs : P s) : P t := by
  induction h with
  | refl => exact hs
  | tail _ he ih => exact hP _ _ he ih

/-! ### The operations as sequences of changes -/

theorem emit_edits (s : State) (e : LogEvent) : Edits i s (s.emit e) := (Edit.noted s.freeIx (e :: s.log)).edits

theorem rejectMisaligned_edits (s : State) (a : Word) : Edits i s (s.rejectMisaligned a) :=
  (emit_edits s _).trans (emit_edits _ _)

/-- An admitted read changes nothing but the number of the next free draw. -/
theorem afterRead_eq (s : State) (a : Word) (sz : Size) : ∃ ix, s.afterRead a sz = { s with freeIx := ix } := by
  unfold State.afterRead
  split
  · exact ⟨s.freeIx + 1, rfl⟩
  · exact ⟨s.freeIx, rfl⟩

theorem afterRead_edits (s : State) (a : Word) (sz : Size) : Edits i s (s.afterRead a sz) := by
  obtain ⟨ix, e⟩ := afterRead_eq s a sz
  rw [e]
  exact (Edit.noted ix s.log).edits

theorem afterWrite_edits {a : Word} {sz : Size} {v : Word} (hw : s.writable a sz = true) :
    Edits i s (s.afterWrite a sz v) := by
  have hwf : s.mem.wf = true → (s.afterWrite a sz v).mem.wf = true := afterWrite_wf hw
  revert hwf
  unfold State.afterWrite
  split
  · exact fun _ => .refl
  · exact fun hwf => (Edit.stored _ hwf).edits

theorem setSp_edits (s : State) (v : Word) : Edits i s (s.setSp v) := by
  unfold State.setSp
  split
  · exact (Edit.spProcess v).edits
  · exact (Edit.spMain v).edits

/-- R330: a throw adds one key of the exception to the pending store, or drops it with a LOG event. -/
theorem throwException_edits (s : State) (n : Nat) : Edits i s (s.throwException n) := by
  unfold State.throwException
  split
  · exact (Edit.pended n ‹_›).edits
  · exact emit_edits s _

theorem writeX_edits (s : State) (r : RegNum) (v : Word) : Edits i s (s.writeX r v) := by
  unfold State.writeX
  split
  · exact (Edit.gpr _).edits
  · split
    · exact setSp_edits s v
    · split
      · exact (Edit.lr v).edits
      · exact .refl

theorem writeAll_edits (vs : List (RegNum × Word)) (s : State) : Edits i s (s.writeAll vs) := by
  induction vs generalizing s with
  | nil => exact .refl
  | cons p rest ih => exact (writeX_edits s p.1 p.2).trans (ih _)

theorem writeBack_edits (s : State) (wb : Option (RegNum × Word)) : Edits i s (s.writeBack wb) := by
  cases wb with
  | none => exact .refl
  | some p => exact writeX_edits s p.1 p.2

theorem flagsNZ_edits (s : State) (b : Bool) (r : Word) : Edits i s (s.flagsNZ b r) := by
  unfold State.flagsNZ
  split
  · exact (Edit.psr (s.psr.setNZ r) rfl).edits
  · exact .refl

theorem flagsNZC_edits (s : State) (b : Bool) (r : Word) (c : Bool) : Edits i s (s.flagsNZC b r c) := by
  unfold State.flagsNZC
  split
  · exact (Edit.psr (s.psr.setNZC r c) rfl).edits
  · exact .refl

theorem flagsNZCV_edits (s : State) (b : Bool) (a : AddResult) : Edits i s (s.flagsNZCV b a) := by
  unfold State.flagsNZCV
  split
  · exact (Edit.psr (s.psr.setNZCV a) rfl).edits
  · exact .refl

theorem branchWritePC_edits (s : State) (a : Word) : Edits i s (s.branchWritePC a) := (Edit.pc a).edits

/-! ### Accesses -/

/-- Whether an access succeeds or fails, the state it leaves satisfies `P`. -/
def Access.Ends {α : Type} (P : State → Prop) : Access α → Prop
  | .ok _ s => P s
  | .failed s => P s

theorem Access.ends_bind {α β : Type} {P : State → Prop} {a : Access α} {k : α → State → Access β} (ha : a.Ends P)
    (hk : ∀ v t, P t → (k v t).Ends P) : (a.bind k).Ends P := by
  cases a with
  | ok v t => exact hk v t ha
  | failed t => exact ha

theorem loadU_ends (h : Edits i s t) (a : Word) (sz : Size) : (t.loadU a sz).Ends (Edits i s) := by
  rw [loadU_eq]
  split
  · exact h.trans (afterRead_edits t a sz)
  · exact h.trans (emit_edits t _)

theorem storeU_ends (h : Edits i s t) (a : Word) (sz : Size) (v : Word) : (t.storeU a sz v).Ends (Edits i s) := by
  rw [storeU_eq]
  split
  · exact h.trans (afterWrite_edits ‹_›)
  · exact h.trans (emit_edits t _)

theorem loadA_ends (h : Edits i s t) (a : Word) (sz : Size) : (t.loadA a sz).Ends (Edits i s) := by
  unfold State.loadA
  split
  · exact loadU_ends h a sz
  · exact h.trans (rejectMisaligned_edits t a)

theorem storeA_ends (h : Edits i s t) (a : Word) (sz : Size) (v : Word) : (t.storeA a sz v).Ends (Edits i s) := by
  unfold State.storeA
  split
  · exact storeU_ends h a sz v
  · exact h.trans (rejectMisaligned_edits t a)

theorem loadRegs_ends (regs : List RegNum) (h : Edits i s t) (a : Word) : (t.loadRegs a regs).Ends (Edits i s) := by
  induction regs generalizing t a with
  | nil => exact h
  | cons r rest ih =>
    exact Access.ends_bind (loadA_ends h a .word) fun _ _ h1 => Access.ends_bind (ih h1 _) fun _ _ h2 => h2

theorem loadWords_ends (n : Nat) (h : Edits i s t) (a : Word) : (t.loadWords a n).Ends (Edits i s) := by
  induction n generalizing t a with
  | zero => exact h
  | succ n ih =>
    exact Access.ends_bind (loadA_ends h a .word) fun _ _ h1 => Access.ends_bind (ih h1 _) fun _ _ h2 => h2

theorem storeWords_ends (ws : List Word) (h : Edits i s t) (a : Word) : (t.storeWords a ws).Ends (Edits i s) := by
  induction ws generalizing t a with
  | nil => exact h
  | cons w rest ih => exact Access.ends_bind (storeA_ends h a .word w) fun _ _ h1 => ih h1 _

/-- Word loads that succeed change nothing but the number of the next free draw. -/
theorem loadWords_state {n : Nat} {a : Word} {ws : List Word} (h : s.loadWords a n = .ok ws t) :
    ∃ ix, t = { s with freeIx := ix } := by
  induction n generalizing s a ws t with
  | zero =>
    cases h
    exact ⟨_, rfl⟩
  | succ n ih =>
    obtain ⟨ix1, e1⟩ := afterRead_eq s a .word
    rw [State.loadWords, loadA_eq, e1] at h
    split at h
    · split at h
      · simp only [Access.bind] at h
        split at h
        · rename_i ws' t' e
          obtain ⟨ix, rfl⟩ := ih e
          cases h
          exact ⟨ix, rfl⟩
        · cases h
      · cases h
    · cases h

/-! ### Outcomes -/

/-- If the outcome is a next state, a sequence of changes leads to it. -/
def Result.Edited (i : Instr) (s : State) (r : Result) : Prop := ∀ t, r = .next t → Edits i s t

theorem next_edited (h : Edits i s t) : Result.Edited i s (.next t) := by
  rintro _ ⟨⟩
  exact h

theorem Access.andThen_edited {α : Type} {a : Access α} {k : α → State → Result} (ha : a.Ends (Edits i s))
    (hk : ∀ v t, Edits i s t → Result.Edited i s (k v t)) : Result.Edited i s (a.andThen k) := by
  cases a with
  | ok v t => exact hk v t ha
  | failed t => exact next_edited ha

theorem conditional_edited {body : State → Result} (h : Result.Edited i s (body s)) :
    Result.Edited i s (conditional s body) := by
  unfold conditional
  split
  · exact h
  · exact next_edited .refl

theorem prologue_edited {j : Instr} {b passed : Bool} {body : State → Result} (h : Result.Edited i s (body s)) :
    Result.Edited i s (prologue j b passed s body) := by
  unfold prologue
  split
  · exact next_edited (emit_edits s _)
  · split
    · exact h
    · exact next_edited .refl

theorem guarded_edited {j : Instr} {b : Bool} {body : State → Result} (h : Result.Edited i s (body s)) :
    Result.Edited i s (guarded j b s body) := prologue_edited h

theorem finishShift_edited (rd : RegNum) (r : Word × Bool) : Result.Edited i s (finishShift rd r s) :=
  next_edited ((writeX_edits s rd r.1).trans (flagsNZC_edits _ _ _ _))

theorem finishLogic_edited (rd : RegNum) (r : Word) : Result.Edited i s (finishLogic rd r s) :=
  next_edited ((writeX_edits s rd r).trans (flagsNZ_edits _ _ _))

theorem finishAdd_edited (rd : RegNum) (a : AddResult) : Result.Edited i s (finishAdd rd a s) :=
  next_edited ((writeX_edits s rd a.result).trans (flagsNZCV_edits _ _ _))

theorem finishCompare_edited (a : AddResult) : Result.Edited i s (finishCompare a s) :=
  next_edited (flagsNZCV_edits s _ a)

theorem finishWrite_edited (rd : RegNum) (v : Word) : Result.Edited i s (finishWrite rd v s) :=
  next_edited (writeX_edits s rd v)

theorem finishAluWrite_edited (rd : RegNum) (v : Word) : Result.Edited i s (finishAluWrite rd v s) := by
  unfold finishAluWrite
  split
  · exact next_edited (branchWritePC_edits s v)
  · exact next_edited (writeX_edits s rd v)

theorem finishLoad_edited (rt : RegNum) (ext : Word → Word) (a : Word) (sz : Size) :
    Result.Edited i s (finishLoad rt ext (s.loadU a sz)) :=
  Access.andThen_edited (loadU_ends .refl a sz) fun _ _ h => next_edited (h.trans (writeX_edits _ _ _))

theorem finishStore_edited (a : Word) (sz : Size) (v : Word) : Result.Edited i s (finishStore (s.storeU a sz v)) :=
  Access.andThen_edited (storeU_ends .refl a sz v) fun _ _ h => next_edited h

theorem compareBranch_edited (taken b : Bool) (imm5 : BitVec 5) : Result.Edited i s (compareBranch taken b imm5 s) := by
  unfold compareBranch
  split
  · exact next_edited (branchWritePC_edits s _)
  · exact next_edited .refl

/-- R340, R341: an exception return from Handler mode is a throw, or a validated return and perhaps a throw. -/
theorem exceptionReturn_edited (hmode : s.mode = .handler) (a : Word) :
    Result.Edited i s (s.exceptionReturn a) := by
  intro t ht
  obtain ⟨_, rfl⟩ | ⟨target, process, r, ws, s', hv, hload, rfl⟩ := exceptionReturn_next ht
  · exact throwException_edits s _
  · obtain ⟨ix, rfl⟩ := loadWords_state hload
    have hnoted : Edits i s { s with freeIx := ix } := (Edit.noted ix s.log).edits
    have hrestored := hnoted.tail (.returned a target process r (s.bankSp process) ws hmode hv)
    unfold State.postPopCheck
    split
    · exact hrestored.trans (throwException_edits _ _)
    · exact hrestored

/-- R146: `BXWritePC` in any state. -/
theorem bxWritePC_edited (h : Edits i s t) (a : Word) : Result.Edited i s (t.bxWritePC a) := by
  unfold State.bxWritePC
  split
  · rename_i hret
    have hmode : t.mode = .handler := by
      simp only [State.isExceptionReturn, Bool.and_eq_true, beq_iff_eq] at hret
      exact hret.1.1
    exact fun u hu => h.trans (exceptionReturn_edited hmode a u hu)
  · exact next_edited ((h.tail (.psr { t.psr with t := a.getLsbD 0 } rfl)).tail (.pc a))

theorem storeMultiple_edited (mask : BitVec 16) (start : Word) (wb : Option (RegNum × Word)) :
    Result.Edited i s (storeMultiple mask start wb s) :=
  Access.andThen_edited (storeWords_ends _ .refl start) fun _ _ h => next_edited (h.trans (writeBack_edits _ wb))

theorem loadMultiple_edited (mask : BitVec 16) (p : Bool) (start : Word) (wb : Option (RegNum × Word)) :
    Result.Edited i s (loadMultiple mask p start wb s) := by
  refine Access.andThen_edited (loadRegs_ends _ .refl start) fun vs t h => ?_
  have hwritten : ∀ {u}, Edits i s u → Edits i s ((u.writeAll vs).writeBack wb) := fun hu =>
    (hu.trans (writeAll_edits vs _)).trans (writeBack_edits _ wb)
  split
  · exact Access.andThen_edited (loadA_ends h _ .word) fun target _ h2 => bxWritePC_edited (hwritten h2) target
  · exact next_edited (hwritten h)

theorem storeExclusive_edited (rd : RegNum) (a : Word) (sz : Size) (v : Word) :
    Result.Edited i s (storeExclusive rd a sz v s) := by
  unfold storeExclusive
  split
  · exact next_edited (rejectMisaligned_edits s a)
  · split
    · exact Access.andThen_edited (storeU_ends .refl a sz v) fun _ _ h =>
        next_edited ((h.tail (.consumed a sz)).trans (writeX_edits _ _ _))
    · exact next_edited ((Edit.consumed a sz).edits.trans (writeX_edits _ _ _))

theorem loadExclusive_edited (rt : RegNum) (a : Word) (sz : Size) : Result.Edited i s (loadExclusive rt a sz s) :=
  Access.andThen_edited (loadA_ends .refl a sz) fun _ _ h =>
    next_edited ((h.tail (.reserved a sz)).trans (writeX_edits _ _ _))

theorem loadDual_edited (rt rt2 : RegNum) (a : Word) (wb : Option (RegNum × Word)) :
    Result.Edited i s (loadDual rt rt2 a wb s) :=
  Access.andThen_edited (loadWords_ends 2 .refl a) fun _ _ h =>
    next_edited (((h.trans (writeX_edits _ _ _)).trans (writeX_edits _ _ _)).trans (writeBack_edits _ wb))

theorem storeDual_edited (rt rt2 : RegNum) (a : Word) (wb : Option (RegNum × Word)) :
    Result.Edited i s (storeDual rt rt2 a wb s) :=
  Access.andThen_edited (storeWords_ends _ .refl a) fun _ _ h => next_edited (h.trans (writeBack_edits _ wb))

theorem tableBranch_edited (a : Word) (sz : Size) : Result.Edited i s (tableBranch a sz s) :=
  Access.andThen_edited (loadU_ends .refl a sz) fun _ _ h => next_edited (h.trans (branchWritePC_edits _ _))

/-- R267: IT writes ITSTATE and keeps the end of its own cycle from advancing it. -/
theorem execIt_edited (firstcond mask : BitVec 4) : Result.Edited i s (execIt firstcond mask s) :=
  guarded_edited (next_edited
    ((Edit.psr { s.psr with itstate := firstcond ++ mask } rfl).edits.tail .itStarted))

/-- Every instruction that completes is a sequence of the changes `Edit` lists. -/
theorem exec_edited (i : Instr) (s : State) : Result.Edited i s (exec i s) := by
  unfold exec
  cases i with
  | lslImm | lsrImm | asrImm | lslReg | lsrReg | asrReg | rorReg => exact conditional_edited (finishShift_edited _ _)
  | andReg | eorReg | orrReg | mulReg | bicReg | mvnReg | movImm => exact conditional_edited (finishLogic_edited _ _)
  | movsReg => exact guarded_edited (finishLogic_edited _ _)
  | addReg | subReg | addImm3 | subImm3 | addImm8 | subImm8 | adcReg | sbcReg | rsbImm0 =>
    exact conditional_edited (finishAdd_edited _ _)
  | cmpImm | cmpReg | cmnReg => exact conditional_edited (finishCompare_edited _)
  | tstReg => exact conditional_edited (next_edited (flagsNZ_edits _ _ _))
  | cmpHi => exact guarded_edited (finishCompare_edited _)
  | addHi | movHi => exact guarded_edited (finishAluWrite_edited _ _)
  | bx => exact guarded_edited (bxWritePC_edited .refl _)
  | blxReg => exact guarded_edited (bxWritePC_edited (Edit.lr _).edits _)
  | ldrLit | ldrReg | ldrhReg | ldrbReg | ldrsbReg | ldrshReg | ldrImm | ldrbImm | ldrhImm | ldrSp =>
    exact conditional_edited (finishLoad_edited _ _ _ _)
  | strReg | strhReg | strbReg | strImm | strbImm | strhImm | strSp =>
    exact conditional_edited (finishStore_edited _ _ _)
  | adr | addSpImm8 | addSpImm7 | subSpImm7 | sxth | sxtb | uxth | uxtb | rev | rev16 | revsh =>
    exact conditional_edited (finishWrite_edited _ _)
  | cbz | cbnz => exact guarded_edited (compareBranch_edited _ _ _)
  | cps im sb ip fm => exact guarded_edited (next_edited (Edit.masked im sb ip fm rfl).edits)
  | it => exact execIt_edited _ _
  | bkpt => exact next_edited .refl
  | nop | yield | wfe | wfi | sev | hintUnallocated => exact conditional_edited (next_edited .refl)
  | bCond => exact prologue_edited (next_edited (branchWritePC_edits _ _))
  | b => exact guarded_edited (next_edited (branchWritePC_edits _ _))
  | svc => exact conditional_edited (next_edited (throwException_edits _ _))
  | push | stm | stmW | stmdb | pushW => exact guarded_edited (storeMultiple_edited _ _ _)
  | pop | ldm | ldmW | popW | ldmdb => exact guarded_edited (loadMultiple_edited _ _ _ _)
  | strex | strexb | strexh => exact guarded_edited (storeExclusive_edited _ _ _ _)
  | ldrex | ldrexb | ldrexh => exact guarded_edited (loadExclusive_edited _ _ _)
  | strdImm => exact guarded_edited (storeDual_edited _ _ _ _)
  | ldrdImm | ldrdLit => exact guarded_edited (loadDual_edited _ _ _ _)
  | tbb | tbh => exact guarded_edited (tableBranch_edited _ _)
  | unpredCmpLowLow | unpredUdf | unpredNop16 | unpredNop32 => exact next_edited (emit_edits _ _)

end Sys2Proof.Machine
end

section
/-! What no instruction touches: the configuration and the masks (10_state.md R35 to R37), and in Thread mode the mode,
IPSR, SPSEL and the active records (R34, R39). -/

namespace Sys2Proof.Machine

variable {i : Instr} {s t : State}

/-! ### The configuration and the masks -/

/-- BASEPRI, the configuration and the run state are those of `s`. -/
structure SameConfiguration (s t : State) : Prop where
  basepri : t.basepri = s.basepri
  vt : t.nvic.vt = s.nvic.vt
  pri : t.nvic.pri = s.nvic.pri
  prigroup : t.nvic.prigroup = s.nvic.prigroup
  regions : t.regions = s.regions
  params : t.params = s.params
  halting : t.halting = s.halting
  halted : t.halted = s.halted

/-- PRIMASK and FAULTMASK are those of `s`. -/
structure SameMasks (s t : State) : Prop where
  primask : t.primask = s.primask
  faultmask : t.faultmask = s.faultmask

theorem SameConfiguration.trans {u : State} (h : SameConfiguration s t) (h' : SameConfiguration t u) :
    SameConfiguration s u where
  basepri := h'.basepri.trans h.basepri
  vt := h'.vt.trans h.vt
  pri := h'.pri.trans h.pri
  prigroup := h'.prigroup.trans h.prigroup
  regions := h'.regions.trans h.regions
  params := h'.params.trans h.params
  halting := h'.halting.trans h.halting
  halted := h'.halted.trans h.halted

theorem Edit.sameConfiguration (h : Edit i s t) : SameConfiguration s t := by
  cases h <;> constructor <;> rfl

/-- Of the single changes only that of CPS reaches a mask. -/
theorem Edit.sameMasks (h : Edit i s t) (hcps : ∀ im sb ip fm, i ≠ .cps im sb ip fm) : SameMasks s t := by
  cases h with
  | masked im sb ip fm hi => exact absurd hi (hcps im sb ip fm)
  | _ => exact ⟨rfl, rfl⟩

/-- Settles O7: every single change keeps the configuration, and every one but CPS's the masks. -/
theorem onlyCpsWritesTheMasks : Obligations.OnlyCpsWritesTheMasks := by
  intro i s t hexec
  have hedits : Edits i s t := exec_edited i s t hexec
  have hconfig : SameConfiguration s t :=
    hedits.keep (P := SameConfiguration s) (fun _ _ he h => h.trans he.sameConfiguration) (by constructor <;> rfl)
  refine ⟨hconfig.basepri, hconfig.vt, hconfig.pri, hconfig.prigroup, hconfig.regions, hconfig.params,
    hconfig.halting, hconfig.halted, fun hcps => ?_⟩
  have hmasks : SameMasks s t :=
    hedits.keep (P := SameMasks s)
      (fun _ _ he h => ⟨(he.sameMasks hcps).primask.trans h.primask, (he.sameMasks hcps).faultmask.trans h.faultmask⟩)
      ⟨rfl, rfl⟩
  exact ⟨hmasks.primask, hmasks.faultmask⟩

/-! ### Thread mode -/

/-- The core is in Thread mode, with the IPSR, the SPSEL and the active records of `s`. -/
structure StaysInThread (s t : State) : Prop where
  mode : t.mode = .thread
  ipsr : t.psr.ipsr = s.psr.ipsr
  spsel : t.spsel = s.spsel
  active : t.nvic.active = s.nvic.active
  activeStack : t.nvic.activeStack = s.nvic.activeStack
  nested : t.nvic.nested = s.nvic.nested

theorem StaysInThread.trans {u : State} (h : StaysInThread s t) (h' : StaysInThread t u) : StaysInThread s u where
  mode := h'.mode
  ipsr := h'.ipsr.trans h.ipsr
  spsel := h'.spsel.trans h.spsel
  active := h'.active.trans h.active
  activeStack := h'.activeStack.trans h.activeStack
  nested := h'.nested.trans h.nested

/-- The one change that leaves a mode is an exception return, which starts in Handler mode. -/
theorem Edit.staysInThread (h : Edit i s t) (hmode : s.mode = .thread) : StaysInThread s t := by
  cases h with
  | returned a target process r fp ws hhandler => cases hmode.symm.trans hhandler
  | psr p hp => exact ⟨hmode, hp, rfl, rfl, rfl, rfl⟩
  | _ => exact ⟨hmode, rfl, rfl, rfl, rfl, rfl⟩

/-- Settles O6: no single change leaves Thread mode or reaches the active records there. -/
theorem threadModeIsLeftOnlyByTheCheck : Obligations.ThreadModeIsLeftOnlyByTheCheck := by
  intro i s t hmode hexec
  have hedits : Edits i s t := exec_edited i s t hexec
  obtain ⟨mode, ipsr, spsel, active, activeStack, nested⟩ : StaysInThread s t :=
    hedits.keep (P := StaysInThread s) (fun _ _ he h => h.trans (he.staysInThread h.mode))
      ⟨hmode, rfl, rfl, rfl, rfl, rfl⟩
  exact ⟨mode, ipsr, spsel, active, activeStack, nested⟩

end Sys2Proof.Machine
end

section
/-! The invariant of 10_state.md R46: kept by every single change of an instruction, by the other phases of the cycle
(R94) and by every environment action (R386); it holds after RESET. -/

namespace Sys2Proof.Machine

variable {i : Instr} {s t : State}

/-! ### The values that the invariant bounds -/

theorem spMask_aligned (v : Word) : (spMask v).extractLsb' 0 2 = 0#2 := by
  have hmask : (0xFFFFFFFC#32).extractLsb' 0 2 = 0#2 := rfl
  unfold spMask
  rw [BitVec.extractLsb'_and, hmask, BitVec.and_zero]

theorem clearBit0_even (a : Word) : (clearBit0 a).getLsbD 0 = false := by
  simp [clearBit0]

theorem getLsbD_zero_eq_false_iff (a : Word) : a.getLsbD 0 = false ↔ 2 ∣ a.toNat := by
  rw [BitVec.getLsbD, Nat.testBit_zero, decide_eq_false_iff_not]
  omega

/-- R325: a group priority is the raw priority rounded down to a group, and not below 0. -/
theorem groupOf_bounds (p : Fin 8) {raw : Int} (hlow : -2 ≤ raw) (hhigh : raw ≤ 255) :
    -2 ≤ groupOf p raw ∧ groupOf p raw ≤ 255 := by
  unfold groupOf
  split
  · exact ⟨hlow, hhigh⟩
  · have hpos : (0 : Int) < 2 ^ (p.val + 1) := by positivity
    have hrem := Int.emod_nonneg raw hpos.ne'
    have hle : raw % 2 ^ (p.val + 1) ≤ raw := by
      have hdiv : 0 ≤ 2 ^ (p.val + 1) * (raw / 2 ^ (p.val + 1)) :=
        Int.mul_nonneg hpos.le (Int.ediv_nonneg (by omega) hpos.le)
      have hsum := Int.emod_add_mul_ediv raw (2 ^ (p.val + 1))
      omega
    omega

/-- R44, R323: from exception 2 on, a raw priority lies between NMI's -2 and 255; an unset one counts as 0. -/
theorem Inv.raw_bounds (h : Inv s) {n : Nat} (hn : 2 ≤ n) : -2 ≤ s.nvic.raw n ∧ s.nvic.raw n ≤ 255 := by
  obtain ⟨_, h2, h3⟩ := h.priFixed
  unfold Nvic.raw
  rw [List.getD_eq_getElem?_getD]
  by_cases hfixed : n < 4
  · obtain rfl | rfl : n = 2 ∨ n = 3 := by omega
    · simp [h2]
    · simp [h3]
  · cases hpri : s.nvic.pri[n]? with
    | none => simp
    | some o =>
      cases o with
      | none => simp
      | some r =>
        have := h.priRange n r (by omega) hpri
        simp only [Option.getD_some]
        omega

/-! ### Changes to one part of the state -/

theorem Inv.setGpr (h : Inv s) (g : Vector Word 13) : Inv (s.setGpr g) := { h with }

theorem Inv.setLr (h : Inv s) (v : Word) : Inv (s.setLr v) := { h with }

theorem Inv.setPsr (h : Inv s) (p : Psr) : Inv (s.setPsr p) := { h with }

theorem Inv.setPc (h : Inv s) {a : Word} (ha : a.getLsbD 0 = false) : Inv (s.setPc a) := { h with pcEven := ha }

theorem Inv.setMem (h : Inv s) {m : Memory} (hm : m.wf = true) : Inv (s.setMem m) := { h with memoryForm := hm }

/-- R330: a larger pending store, its new key that of an exception the controller has. -/
theorem Inv.pend (h : Inv s) {n : Nat} (haccepted : s.throwAccepted n = true) :
    Inv (s.setNvic
      { s.nvic with pending := insertKey { gp := s.nvic.groupPri n, vector := n } s.nvic.pending }) := by
  simp only [State.throwAccepted, Bool.and_eq_true, decide_eq_true_eq] at haccepted
  obtain ⟨⟨hlow, hhigh⟩, hroom⟩ := haccepted
  obtain ⟨hrawLow, hrawHigh⟩ := h.raw_bounds hlow
  refine { h with
    pendingCapacity := ?_
    pendingKeys := fun k hk => ?_
    pendingOrder := pairwise_insertKey _ h.pendingOrder }
  · simpa [length_insertKey] using hroom
  · rcases mem_insertKey.mp hk with rfl | hk
    · exact ⟨hlow, hhigh, groupOf_bounds _ hrawLow hrawHigh⟩
    · exact h.pendingKeys k hk

/-! ### The monitor -/

/-- The order of the records is that of address, then size. -/
theorem ExclRecord.before_iff (e f : ExclRecord) :
    e.before f = true ↔
      e.addr.toNat < f.addr.toNat ∨ (e.addr.toNat = f.addr.toNat ∧ e.size.bytes < f.size.bytes) := by
  simp [ExclRecord.before, BitVec.toNat_inj]

theorem ExclRecord.before_trans {e f g : ExclRecord} (h : e.before f = true) (h' : f.before g = true) :
    e.before g = true := by
  rw [ExclRecord.before_iff] at *
  omega

theorem Size.bytes_inj {a b : Size} (h : a.bytes = b.bytes) : a = b := by
  revert h
  cases a <;> cases b <;> decide

/-- Of two different records of one owner, one is before the other. -/
theorem ExclRecord.before_of_not_before {e f : ExclRecord} (howner : e.owner = f.owner) (hne : e ≠ f)
    (h : ¬e.before f = true) : f.before e = true := by
  rw [ExclRecord.before_iff] at *
  by_contra hnot
  have haddr : e.addr.toNat = f.addr.toNat := by omega
  have hsize : e.size.bytes = f.size.bytes := by omega
  apply hne
  obtain ⟨a, sz, o⟩ := e
  obtain ⟨b, sz', o'⟩ := f
  obtain rfl : a = b := BitVec.eq_of_toNat_eq haddr
  obtain rfl : sz = sz' := Size.bytes_inj hsize
  obtain rfl : o = o' := howner
  rfl

theorem pairwise_insertExcl {e : ExclRecord} {l : List ExclRecord} (howner : ∀ f ∈ l, e.owner = f.owner)
    (h : l.Pairwise (fun e f => e.before f = true)) : (insertExcl e l).Pairwise (fun e f => e.before f = true) := by
  induction l with
  | nil => simp [insertExcl]
  | cons f rest ih =>
    obtain ⟨hhead, htail⟩ := List.pairwise_cons.mp h
    unfold insertExcl
    split
    · exact h
    · split
      · refine List.pairwise_cons.mpr ⟨fun g hg => ?_, h⟩
        rcases List.mem_cons.mp hg with rfl | hg
        · assumption
        · exact ExclRecord.before_trans ‹_› (hhead g hg)
      · refine List.pairwise_cons.mpr ⟨fun g hg => ?_, ih (fun g hg => howner g (by simp [hg])) htail⟩
        rcases mem_insertExcl.mp hg with rfl | hg
        · exact ExclRecord.before_of_not_before (howner f (by simp)) ‹_› ‹_›
        · exact hhead g hg

theorem Inv.setExclusive (h : Inv s) (a : Word) (sz : Size) : Inv (s.setExclusive a sz) :=
  { h with
    exclOrder := pairwise_insertExcl (fun f hf => (h.exclOwner f hf).symm) h.exclOrder
    exclOwner := fun e he => by
      rcases mem_insertExcl.mp he with rfl | he
      · rfl
      · exact h.exclOwner e he }

theorem Inv.consumeExclusive (h : Inv s) (a : Word) (sz : Size) : Inv (s.consumeExclusive a sz) :=
  { h with
    exclOrder := h.exclOrder.filter _
    exclOwner := fun e he => h.exclOwner e (List.mem_filter.mp he).1 }

theorem Inv.clearExclusive (h : Inv s) : Inv s.clearExclusive :=
  { h with
    exclOrder := List.Pairwise.nil
    exclOwner := fun _ he => absurd he List.not_mem_nil }

/-! ### Exception return -/

/-- R340 part A: a validated return ends the innermost exception, the only one where the target is Thread mode. -/
theorem validateReturn_some {a : Word} {target : Mode} {process : Bool} {r : Nat}
    (h : s.validateReturn a = some (target, process, r)) :
    s.nvic.activeStack.getLast? = some r ∧ (target = .thread → s.nvic.nested = 1) := by
  unfold State.validateReturn at h
  split at h
  · cases h
  · split at h
    · cases h
    · rename_i r' hr
      split at h
      · rename_i hvalid
        cases h
        refine ⟨hr, fun htarget => ?_⟩
        subst htarget
        simpa using (Bool.and_eq_true_iff.mp hvalid).2
      · cases h

/-- R340: one exception fewer is active, none where Thread mode is the target. -/
theorem Inv.restoreFrame (h : Inv s) {a : Word} {target : Mode} {process : Bool} {r : Nat} (fp : Word)
    (ws : List Word) (hv : s.validateReturn a = some (target, process, r)) :
    Inv (s.restoreFrame target process r fp ws) := by
  obtain ⟨_, hsingle⟩ := validateReturn_some hv
  have hlength := s.nvic.activeStack.length_dropLast
  have hdepth := h.nestedDepth
  have hcapacity := h.stackCapacity
  refine { h with
    activeLength := ?_
    nestedDepth := ?_
    stackCapacity := ?_
    stackNumbers := fun v hv => h.stackNumbers v (List.mem_of_mem_dropLast hv)
    threadIdle := fun hthread => ?_
    pcEven := clearBit0_even _
    spMainAligned := ?_
    spProcessAligned := ?_ }
  · exact (List.length_set ..).trans h.activeLength
  · show s.nvic.nested - 1 = s.nvic.activeStack.dropLast.length
    omega
  · show s.nvic.activeStack.dropLast.length ≤ s.params.nvec
    omega
  · have hone := hsingle hthread
    have hempty : s.nvic.activeStack.dropLast.length = 0 := by omega
    exact List.eq_nil_of_length_eq_zero hempty
  · show (if process then s.spMain else poppedSp fp (ws.getD 7 0)).extractLsb' 0 2 = 0#2
    split
    · exact h.spMainAligned
    · exact spMask_aligned _
  · show (if process then poppedSp fp (ws.getD 7 0) else s.spProcess).extractLsb' 0 2 = 0#2
    split
    · exact spMask_aligned _
    · exact h.spProcessAligned

/-! ### Every change -/

/-- Every single change of an instruction keeps the invariant. -/
theorem Edit.keepsInv (he : Edit i s t) (h : Inv s) : Inv t := by
  cases he with
  | gpr g => exact h.setGpr g
  | spMain v => exact { h with spMainAligned := spMask_aligned v }
  | spProcess v => exact { h with spProcessAligned := spMask_aligned v }
  | lr v => exact h.setLr v
  | pc a => exact h.setPc (clearBit0_even a)
  | psr p _ => exact h.setPsr p
  | stored m hm => exact h.setMem (hm h.memoryForm)
  | reserved a sz => exact h.setExclusive a sz
  | consumed a sz => exact h.consumeExclusive a sz
  | pended n haccepted => exact h.pend haccepted
  | returned a target process r fp ws _ hv => exact h.restoreFrame fp ws hv
  | itStarted | noted | masked => exact { h with }

/-- Every sequence of changes keeps the invariant, whatever instruction `i` is: it matters to the masks alone, of
which the invariant says nothing. -/
theorem Inv.edits (h : Inv s) (he : Edits i s t) : Inv t := he.keep (fun _ _ he => he.keepsInv) h

/-! ### Exception entry -/

/-- R334: one exception more is active, and Handler mode is entered; `u` is the state after the frame is pushed. -/
theorem Inv.enterHandler {u : State} {v : Nat} (h : Inv u) (hnvic : s.nvic = u.nvic)
    (hroom : u.nvic.activeStack.length < u.params.nvec) (hlow : 2 ≤ v) (hhigh : v < u.params.nvec) :
    Inv (s.enterHandler u v) := by
  have e : s.enterHandler u v = { s with nvic := u.nvic }.enterHandler u v := by rw [← hnvic]
  rw [e]
  exact { h with
    activeLength := (List.length_set ..).trans h.activeLength
    nestedDepth := by simpa [State.enterHandler, Nvic.activate] using h.nestedDepth
    stackCapacity := by simpa [State.enterHandler, Nvic.activate] using hroom
    stackNumbers := fun w hw => by
      rcases List.mem_append.mp hw with hw | hw
      · exact h.stackNumbers w hw
      · rw [List.mem_singleton.mp hw]
        exact ⟨hlow, hhigh⟩
    threadIdle := fun hthread => by cases hthread
    pcEven := clearBit0_even _ }

/-- R334: pushing the frame keeps the memory's form, and the entry the rest. -/
theorem Inv.takeException (h : Inv s) {v : Nat} (hlow : 2 ≤ v) (hhigh : v < s.params.nvec)
    (ht : s.takeException v = .next t) : Inv t := by
  obtain ⟨hroom, _, s', hstore, rfl⟩ := takeException_next ht
  have hpushed := storeWords_state s.frameWords s (framePointer s.sp) h.memoryForm
  rw [hstore] at hpushed
  obtain ⟨m, hm, rfl⟩ := hpushed
  have hframe : Inv ((s.setMem m).setSp (framePointer s.sp)) := (h.setMem hm).edits (setSp_edits (i := .nop) _ _)
  exact hframe.enterHandler (by simp) (by simpa using hroom) hlow (by simpa using hhigh)

/-- R332: a smaller pending store. -/
theorem Inv.erasePending (h : Inv s) (k : PendingKey) :
    Inv (s.setNvic { s.nvic with pending := s.nvic.pending.erase k }).draw :=
  { h with
    pendingCapacity := (List.erase_sublist.length_le).trans h.pendingCapacity
    pendingKeys := fun j hj => h.pendingKeys j (List.mem_of_mem_erase hj)
    pendingOrder := h.pendingOrder.sublist List.erase_sublist }

theorem Inv.exceptionCheck (h : Inv s) (ht : s.exceptionCheck = .next t) : Inv t := by
  unfold State.exceptionCheck at ht
  split at ht
  · cases ht
    exact h
  · rename_i v s' hcheck
    obtain ⟨k, hk, rfl, _, rfl⟩ := checkException_cases hcheck
    obtain ⟨hlow, hhigh, _⟩ := h.pendingKeys k hk
    exact (h.erasePending k).takeException hlow hhigh ht

/-! ### The step -/

theorem Inv.exec (h : Inv s) (ht : exec i s = .next t) : Inv t :=
  h.edits (exec_edited i s t ht)

/-- R28, R94 phase 3: the PC moves by a whole number of halfwords. -/
theorem Inv.advance (h : Inv s) {len : Nat} (hlen : 2 ∣ len) : Inv (s.advance len) := by
  obtain ⟨k, rfl⟩ := hlen
  have hpc := (getLsbD_zero_eq_false_iff _).mp h.pcEven
  refine { h with pcEven := (getLsbD_zero_eq_false_iff _).mpr ?_ }
  show 2 ∣ (s.pc + BitVec.ofNat 32 (2 * k)).toNat
  simp only [BitVec.toNat_add, BitVec.toNat_ofNat]
  omega

theorem Inv.itAdvance (h : Inv s) : Inv s.itAdvance := by
  unfold State.itAdvance
  split
  · exact h
  · exact h.setPsr _

/-- R90: an opcode has two or four bytes. -/
theorem two_dvd_decodedLength (hw1 hw2 : Half) : 2 ∣ (decodeOpcode hw1 hw2).2 := by
  unfold decodeOpcode
  split
  · exact ⟨2, rfl⟩
  · exact ⟨1, rfl⟩

/-- R91: a fetch fails where a halfword may not be read; it changes nothing but the number of the next free draw. -/
theorem fetch_cases (s : State) :
    ((s.readable s.pc .half = false ∨ s.readable (s.pc + 2) .half = false) ∧
      ∃ ix, s.fetch = .failed { s with freeIx := ix }) ∨
    (s.readable s.pc .half = true ∧ s.readable (s.pc + 2) .half = true ∧
      ∃ hws ix, s.fetch = .ok hws { s with freeIx := ix }) := by
  unfold State.fetch
  rw [portRead_eq]
  cases hfirst : s.readable s.pc .half with
  | false => exact .inl ⟨.inl rfl, s.freeIx, rfl⟩
  | true =>
    obtain ⟨ix1, e1⟩ := afterRead_eq s s.pc .half
    have hregions : State.readable { s with freeIx := ix1 } (s.pc + 2) .half = s.readable (s.pc + 2) .half := rfl
    simp only [if_true, e1, portRead_eq, hregions]
    cases hsecond : s.readable (s.pc + 2) .half with
    | false => exact .inl ⟨.inr rfl, ix1, rfl⟩
    | true =>
      obtain ⟨ix2, e2⟩ := afterRead_eq { s with freeIx := ix1 } (s.pc + 2) .half
      simp only [if_true, e2]
      exact .inr ⟨trivial, trivial, _, ix2, rfl⟩

/-- R94: where a cycle that ends in a next state can end: an idle core stays, a refused fetch halts, and an instruction
that is run ends in the exception check after it. -/
theorem step_next (h : step s = .next t) :
    t = s ∨ (∃ ix, t = State.halt { s with freeIx := ix }) ∨
      ∃ hw1 hw2 ix u,
        exec (decodeOpcode hw1 hw2).1 (State.advance { s with freeIx := ix } (decodeOpcode hw1 hw2).2) = .next u ∧
          u.itAdvance.exceptionCheck = .next t := by
  unfold step cycle at h
  split at h
  · cases h
    exact .inl rfl
  · split at h
    · cases h
    · obtain ⟨_, ix, e⟩ | ⟨_, _, ⟨hw1, hw2⟩, ix, e⟩ := fetch_cases s
      · rw [e] at h
        cases h
        exact .inr (.inl ⟨ix, rfl⟩)
      · rw [e] at h
        simp only [finishCycle] at h
        split at h
        · rename_i u hexec
          exact .inr (.inr ⟨hw1, hw2, ix, u, hexec, h⟩)
        · cases h
        · cases h

/-- Settles O3, phase by phase of the cycle: fetch and advance, the instruction, the IT advance, the check. -/
theorem stepKeepsInvariant : Obligations.StepKeepsInvariant := by
  intro s t h hstep
  obtain rfl | ⟨ix, rfl⟩ | ⟨hw1, hw2, ix, u, hexec, hcheck⟩ := step_next hstep
  · exact h
  · exact { h with }
  · have hfetched : Inv { s with freeIx := ix } := { h with }
    have hadvanced := hfetched.advance (two_dvd_decodedLength hw1 hw2)
    have hexecuted : Inv u := hadvanced.exec hexec
    exact hexecuted.itAdvance.exceptionCheck hcheck

end Sys2Proof.Machine
end

section
/-! Cycles that run no instruction, RESET, the environment's actions and the status word. -/

namespace Sys2Proof.Machine

variable {s t : State}

/-! ### Cycles that run no instruction -/

/-- R45: an idle core takes no step. -/
theorem step_idle (h : s.idle = true) : step s = .next s := by
  simp [step, cycle, h]

/-- R33: a cycle that starts with T = 0 is a fault. -/
theorem step_thumbClear (hidle : s.idle = false) (ht : s.psr.t = false) : step s = .fault .thumbStateClear := by
  simp [step, cycle, hidle, ht]

/-- R91, R383: a refused fetch halts the core. -/
theorem step_fetchFailed {u : State} (hidle : s.idle = false) (ht : s.psr.t = true) (hfetch : s.fetch = .failed u) :
    step s = .next u.halt := by
  simp [step, cycle, hidle, ht, hfetch]

/-- Settles O9, by the three ways a cycle ends before it runs an instruction. -/
theorem cyclesWithoutAnInstruction : Obligations.CyclesWithoutAnInstruction := by
  intro s
  refine ⟨fun hidle => step_idle (by simpa [State.idle] using hidle), fun hhalting hhalted => ?_⟩
  have hidle : s.idle = false := by simp [State.idle, hhalting, hhalted]
  refine ⟨step_thumbClear hidle, fun ht hrefused => ?_⟩
  obtain ⟨_, ix, e⟩ | ⟨hfirst, hsecond, _⟩ := fetch_cases s
  · exact ⟨ix, step_fetchFailed hidle ht e⟩
  · simp only [hfirst, hsecond, Bool.true_eq_false, or_self] at hrefused

/-! ### RESET -/

theorem length_readVectors (rs : List Region) (m : Memory) (n ix k : Nat) :
    (readVectors rs m n ix k).1.length = k := by
  induction k generalizing n ix with
  | zero => rfl
  | succ k ih => simp [readVectors, ih]

/-- R380 step 2: the j-th word is that of vector `n + j`, read at some number of draws. -/
theorem getElem?_readVectors {rs : List Region} {m : Memory} {n ix k j : Nat} {w : Word}
    (h : (readVectors rs m n ix k).1[j]? = some w) : ∃ ix', w = (readVector rs m (4 * (n + j)) ix').1 := by
  induction k generalizing n ix j with
  | zero => simp [readVectors] at h
  | succ k ih =>
    cases j with
    | zero =>
      refine ⟨ix, ?_⟩
      simpa [readVectors] using h.symm
    | succ j =>
      rw [readVectors, List.getElem?_cons_succ] at h
      obtain ⟨ix', hw⟩ := ih h
      exact ⟨ix', by rw [hw, show n + 1 + j = n + (j + 1) by omega]⟩

/-- R380 step 2: 0 where the port refuses the read, memory's bytes where no device answers. -/
theorem readVector_spec (rs : List Region) (m : Memory) (a ix : Nat) :
    (findRegion rs a 4 = none → (readVector rs m a ix).1 = 0) ∧
      ∀ r, findRegion rs a 4 = some r →
        (r.readable = false → (readVector rs m a ix).1 = 0) ∧
          (r.readable = true → r.kind.isDevice = false → (readVector rs m a ix).1 = m.readLE a 4) := by
  unfold readVector
  refine ⟨fun hnone => by rw [hnone], fun r hr => ⟨fun hread => ?_, fun hread hdevice => ?_⟩⟩
  · simp [hr, hread]
  · simp [hr, hread, hdevice]

theorem resetWith_vt (p : Params) (rs : List Region) (m : Memory) (ix : Nat) :
    (State.resetWith p rs m ix).nvic.vt = (readVectors rs m 0 ix p.nvec).1 := rfl

theorem length_resetPri {nvec : Nat} (h : Config.minNvec ≤ nvec) : (resetPri nvec).length = nvec := by
  simp only [Config.minNvec] at h
  simp [resetPri]
  omega

/-- R48: only the priorities 1, 2 and 3 are set. -/
theorem resetPri_unset {nvec n : Nat} (hlow : 4 ≤ n) (hhigh : n < nvec) : (resetPri nvec)[n]? = some none := by
  unfold resetPri
  have hunset : n - 4 < nvec - 4 := by omega
  rw [List.getElem?_append_right (by simpa using hlow), List.getElem?_replicate]
  exact if_pos hunset

theorem getD_of_getElem? {l : List Word} {n : Nat} {w : Word} (h : l[n]? = some w) : l.getD n 0 = w := by
  rw [List.getD_eq_getElem?_getD, h, Option.getD_some]

/-- Settles O11: the vector table word by word, the rest by the fields of `State.resetWith`. -/
theorem resetGivesSpecifiedValues : Obligations.ResetGivesSpecifiedValues := by
  intro p rs m ix hnvec s
  have hlength : s.nvic.vt.length = p.nvec := length_readVectors rs m 0 ix p.nvec
  have hmin : 16 ≤ p.nvec := hnvec
  have hwords : ∀ n w, s.nvic.vt[n]? = some w → ∃ ix', w = (readVector rs m (4 * n) ix').1 := fun n w hw => by
    obtain ⟨ix', e⟩ := getElem?_readVectors hw
    exact ⟨ix', by rwa [Nat.zero_add] at e⟩
  have hw0 : s.nvic.vt[0]? = some s.nvic.vt[0] := List.getElem?_eq_getElem _
  have hw1 : s.nvic.vt[1]? = some s.nvic.vt[1] := List.getElem?_eq_getElem _
  refine ⟨hlength, fun n w hw => ?_, ⟨_, _, hw0, hw1, ?_, ?_, ?_⟩, rfl, rfl, rfl, rfl, rfl, rfl, rfl, rfl, rfl, rfl, rfl,
    rfl, rfl, rfl, fun n hn => ?_, rfl, rfl, rfl, fun n hlow hhigh => resetPri_unset hlow hhigh, rfl⟩
  · obtain ⟨ix', rfl⟩ := hwords n w hw
    exact readVector_spec rs m (4 * n) ix'
  · rw [← getD_of_getElem? hw0]
    rfl
  · rw [← getD_of_getElem? hw1]
    rfl
  · rw [← getD_of_getElem? hw1]
    rfl
  · show (List.replicate p.nvec false)[n]? = some false
    simp [hn]

/-- R48, R380: RESET over a memory in canonical form leaves a state of the invariant, whatever NVEC is. -/
theorem Inv.resetWith {p : Params} {rs : List Region} {m : Memory} {ix : Nat}
    (hnvec : Config.minNvec ≤ p.nvec ∧ p.nvec ≤ Config.maxNvec) (hm : m.wf = true) :
    Inv (State.resetWith p rs m ix) where
  nvecRange := hnvec
  vtLength := length_readVectors rs m 0 ix p.nvec
  priLength := length_resetPri hnvec.1
  activeLength := List.length_replicate
  priFixed := ⟨rfl, rfl, rfl⟩
  priRange := fun n r hlow hpri => by
    have hpri' : (resetPri p.nvec)[n]? = some (some r) := hpri
    have hhigh : n < (resetPri p.nvec).length := (List.getElem?_eq_some_iff.mp hpri').1
    rw [length_resetPri hnvec.1] at hhigh
    rw [resetPri_unset hlow hhigh] at hpri'
    cases hpri'
  nestedDepth := rfl
  stackCapacity := Nat.zero_le _
  stackNumbers := fun v hv => absurd hv List.not_mem_nil
  pendingCapacity := Nat.zero_le _
  pendingKeys := fun k hk => absurd hk List.not_mem_nil
  pendingOrder := List.Pairwise.nil
  threadIdle := fun _ => rfl
  pcEven := clearBit0_even _
  spMainAligned := spMask_aligned _
  spProcessAligned := rfl
  memoryForm := hm
  exclOrder := List.Pairwise.nil
  exclOwner := fun e he => absurd he List.not_mem_nil

/-- Settles O12: the default NVEC is in range and nothing is listed in memory. -/
theorem resetStateSatisfiesInvariant : Obligations.ResetStateSatisfiesInvariant :=
  Inv.resetWith (by decide) Memory.wf_empty

/-! ### The environment's actions -/

theorem Inv.writeSpecial (h : Inv s) (r : SpecialReg) (v : Word) : Inv (s.writeSpecial r v) := by
  cases r with
  | spMain => exact { h with spMainAligned := spMask_aligned v }
  | spProcess => exact { h with spProcessAligned := spMask_aligned v }
  | primask | faultmask | basepri | control => exact { h with }

/-- R326: the fixed priorities stay, and a configured one is in range. -/
theorem Inv.setPriority (h : Inv s) (n : Nat) (raw : Int) : Inv (s.setPriority n raw) := by
  unfold State.setPriority
  split
  · rename_i hvalid
    obtain ⟨hlow, _, hraw⟩ := hvalid
    have hfixed : ∀ j < 4, (s.nvic.pri.set n (some raw))[j]? = s.nvic.pri[j]? := fun j hj =>
      List.getElem?_set_ne (by omega)
    obtain ⟨h1, h2, h3⟩ := h.priFixed
    refine { h with
      priLength := (List.length_set ..).trans h.priLength
      priFixed := ⟨(hfixed 1 (by decide)).trans h1, (hfixed 2 (by decide)).trans h2, (hfixed 3 (by decide)).trans h3⟩
      priRange := fun j r hj hr => ?_ }
    have hset : (s.nvic.pri.set n (some raw))[j]? = some (some r) := hr
    rw [List.getElem?_set] at hset
    split at hset
    · split at hset
      · cases hset
        exact hraw
      · cases hset
    · exact h.priRange j r hj hset
  · exact h

theorem Inv.setPrigroup (h : Inv s) (p : Nat) : Inv (s.setPrigroup p) := by
  unfold State.setPrigroup
  split
  · exact { h with }
  · exact h

/-- R150 to R154: a register and Q, or the reservations. -/
theorem Inv.aluOp (h : Inv s) (op : AluOp) : Inv (aluOp op s) := by
  unfold Machine.aluOp
  split
  · cases op with
    | ssat | usat | qadd8 | qadd16 => exact (h.edits (writeX_edits (i := .nop) s _ _)).setPsr _
    | clrex => exact h.clearExclusive
  · exact h

theorem Inv.resetAgain (h : Inv s) : Inv s.resetAgain :=
  { Inv.resetWith (rs := s.regions) (ix := s.freeIx) h.nvecRange h.memoryForm with }

/-- Settles O13, action by action. -/
theorem environmentActionsKeepInvariant : Obligations.EnvironmentActionsKeepInvariant := by
  intro e s h heven
  cases e with
  | throwExc n => exact h.edits (throwException_edits (i := .nop) s n)
  | setPriority n raw => exact h.setPriority n raw
  | setPrigroup p => exact h.setPrigroup p
  | writeSpecial r v => exact h.writeSpecial r v
  | alu op => exact h.aluOp op
  | setHalting level => exact { h with }
  | setRawPc a => exact h.setPc (heven a rfl)
  | writeReg r v => exact h.edits (writeX_edits (i := .nop) s r v)
  | writeByte a b => exact h.setMem (Memory.wf_writeByte h.memoryForm a.isLt)
  | reset => exact h.resetAgain

/-! ### The status word -/

/-- R29: the flags at bits 31 to 27, T at bit 24, the frame alignment at bit 9. -/
theorem Psr.toWord_bits (p : Psr) (align : Bool) :
    (p.toWord align).getLsbD 31 = p.n ∧ (p.toWord align).getLsbD 30 = p.z ∧ (p.toWord align).getLsbD 29 = p.c ∧
      (p.toWord align).getLsbD 28 = p.v ∧ (p.toWord align).getLsbD 27 = p.q ∧ (p.toWord align).getLsbD 24 = p.t ∧
      (p.toWord align).getLsbD 9 = align := by
  -- The widths are named because the type of `toWord` shows their sum alone.
  simp only [Psr.toWord, bit, BitVec.getLsbD_append (m := 9), BitVec.getLsbD_append (m := 1),
    BitVec.getLsbD_append (m := 6), BitVec.getLsbD_append (m := 8), BitVec.getLsbD_append (m := 2)]
  simp

/-- R29: the two parts of ITSTATE, the reserved byte and IPSR. -/
theorem Psr.toWord_fields (p : Psr) (align : Bool) :
    (p.toWord align).extractLsb' 25 2 = p.itstate.extractLsb' 0 2 ∧ (p.toWord align).extractLsb' 16 8 = 0#8 ∧
      (p.toWord align).extractLsb' 10 6 = p.itstate.extractLsb' 2 6 ∧ (p.toWord align).extractLsb' 0 9 = p.ipsr := by
  simp [Psr.toWord, BitVec.extractLsb'_append_eq_of_le (w := 9), BitVec.extractLsb'_append_eq_of_le (w := 1),
    BitVec.extractLsb'_append_eq_of_le (w := 6), BitVec.extractLsb'_append_eq_of_le (w := 8),
    BitVec.extractLsb'_append_eq_of_add_le (w := 9), BitVec.extractLsb'_append_eq_of_add_le (w := 6),
    BitVec.extractLsb'_append_eq_of_add_le (w := 8), BitVec.extractLsb'_append_eq_of_add_le (w := 2)]

/-- R340: the fields read from a stacked word are those it was made from. -/
theorem Psr.ofWord_toWord (p : Psr) (align : Bool) : Psr.ofWord (p.toWord align) = p := by
  obtain ⟨hn, hz, hc, hv, hq, ht, _⟩ := p.toWord_bits align
  obtain ⟨hitLow, _, hitHigh, hipsr⟩ := p.toWord_fields align
  have hit : p.itstate.extractLsb' 2 6 ++ p.itstate.extractLsb' 0 2 = p.itstate :=
    (BitVec.extractLsb'_append_extractLsb'_eq_extractLsb' rfl).trans BitVec.extractLsb'_eq_self
  simp only [Psr.ofWord, hn, hz, hc, hv, hq, ht, hitLow, hitHigh, hipsr, hit]

/-- Settles O54: the flags by their bits, the wider fields by their ranges, and the word read back. -/
theorem statusWordLayout : Obligations.StatusWordLayout := by
  intro p align w
  obtain ⟨hn, hz, hc, hv, hq, ht, halign⟩ := p.toWord_bits align
  obtain ⟨hitLow, hreserved, hitHigh, hipsr⟩ := p.toWord_fields align
  exact ⟨hn, hz, hc, hv, hq, hitLow, ht, hreserved, hitHigh, halign, hipsr, p.ofWord_toWord align⟩

end Sys2Proof.Machine
end

section
/-! Memory is little-endian (20_memory.md R62): the value of a read, and a read of a part of a word just written. -/

namespace Sys2Proof.Machine

/-- A read of `n` bytes, `n` at most 4, is below 256^n. -/
theorem Memory.toNat_readLE_lt (m : Memory) (a : Nat) {n : Nat} (hn : n ≤ 4) : (m.readLE a n).toNat < 256 ^ n := by
  induction n generalizing a with
  | zero => simp [Memory.readLE]
  | succ n ih =>
    have hrest := ih (a + 1) (by omega)
    have hbyte := (m.readByte a).isLt
    have hpow : (256 : Nat) ^ (n + 1) = 2 ^ (8 * (n + 1)) := (pow_mul 2 8 (n + 1)).symm
    rw [Memory.readLE, hpow, BitVec.toNat_or]
    refine Nat.or_lt_two_pow ?_ ?_
    · simp only [BitVec.toNat_setWidth]
      have : 2 ^ 8 ≤ 2 ^ (8 * (n + 1)) := Nat.pow_le_pow_right (by decide) (by omega)
      omega
    · rw [BitVec.toNat_shiftLeft, Nat.shiftLeft_eq, ← hpow, pow_succ]
      exact (Nat.mod_le _ _).trans_lt (by omega)

/-- The first byte has the lowest weight. -/
theorem Memory.toNat_readLE_succ (m : Memory) (a : Nat) {n : Nat} (hn : n < 4) :
    (m.readLE a (n + 1)).toNat = (m.readByte a).toNat + 256 * (m.readLE (a + 1) n).toNat := by
  have hbyte := (m.readByte a).isLt
  have hrest : (m.readLE (a + 1) n).toNat < 256 ^ 3 :=
    (m.toNat_readLE_lt (a + 1) hn.le).trans_le (Nat.pow_le_pow_right (by decide) (by omega))
  have hshift : (m.readLE (a + 1) n).toNat <<< 8 % 2 ^ 32 = (m.readLE (a + 1) n).toNat <<< 8 := by
    rw [Nat.shiftLeft_eq]
    omega
  rw [Memory.readLE, BitVec.toNat_or, BitVec.toNat_setWidth, BitVec.toNat_shiftLeft, hshift, Nat.lor_comm,
    Nat.mod_eq_of_lt (by omega), ← Nat.shiftLeft_add_eq_or_of_lt hbyte, Nat.shiftLeft_eq]
  omega

theorem Memory.toNat_readLE_one (m : Memory) (a : Nat) : (m.readLE a 1).toNat = (m.readByte a).toNat :=
  m.toNat_readLE_succ a (n := 0) (by decide)

/-- Byte `i` of a word just written. -/
theorem Memory.toNat_readByte_writeLE (m : Memory) (a : Nat) (v : Word) {i : Nat} (hi : i < 4) :
    ((m.writeLE a v 4).readByte (a + i)).toNat = v.toNat / 256 ^ i % 256 := by
  rw [Memory.readByte_writeLE, if_pos (by omega), Nat.add_sub_cancel_left, BitVec.toNat_setWidth,
    BitVec.toNat_ushiftRight, Nat.shiftRight_eq_div_pow, pow_mul]
  rfl

/-- The `n` bytes from byte `i` on of a word just written. -/
theorem Memory.toNat_readLE_writeLE (m : Memory) (a : Nat) (v : Word) {i n : Nat} (hin : i + n ≤ 4) :
    ((m.writeLE a v 4).readLE (a + i) n).toNat = v.toNat / 256 ^ i % 256 ^ n := by
  induction n generalizing i with
  | zero => simp [Memory.readLE, Nat.mod_one]
  | succ n ih =>
    rw [Memory.toNat_readLE_succ _ _ (by omega), Memory.toNat_readByte_writeLE _ _ _ (by omega), Nat.add_assoc,
      ih (by omega), pow_succ' 256 n, Nat.mod_mul, Nat.div_div_eq_div_mul, ← pow_succ]

/-- Settles O55: reads by the weight of each byte, writes byte by byte, and so every part of a written word. -/
theorem memoryIsLittleEndian : Obligations.MemoryIsLittleEndian := by
  intro m a v
  refine ⟨?_, ?_, ?_, ?_, fun b hb => ?_⟩
  · rw [m.toNat_readLE_succ a (n := 3) (by decide), m.toNat_readLE_succ _ (n := 2) (by decide),
      m.toNat_readLE_succ _ (n := 1) (by decide), m.toNat_readLE_one]
    simp only [Nat.add_assoc, Nat.reduceAdd]
    omega
  · rw [m.toNat_readLE_succ a (n := 1) (by decide), m.toNat_readLE_one]
  · apply BitVec.eq_of_toNat_eq
    calc ((m.writeLE a v 4).readLE a 2).toNat
      _ = v.toNat / 256 ^ 0 % 256 ^ 2 := m.toNat_readLE_writeLE a v (i := 0) (by decide)
      _ = v.toNat % 2 ^ 16 := by simp
      _ = (v &&& 0xFFFF#32).toNat := (Nat.and_two_pow_sub_one_eq_mod v.toNat 16).symm
  · apply BitVec.eq_of_toNat_eq
    have hv := v.isLt
    rw [m.toNat_readLE_writeLE a v (by decide), BitVec.toNat_ushiftRight, Nat.shiftRight_eq_div_pow]
    omega
  · rw [Memory.readByte_writeLE, if_neg (by omega)]

end Sys2Proof.Machine
end

section
/-! Exclusive accesses (20_memory.md R74, R75; 48_dual_exclusive_tablebranch32.md R300, R301): what an exclusive load
and an exclusive store leave, once for each outcome, and the sequence of a load and two stores. -/

namespace Sys2Proof.Machine

variable {s : State}

/-! ### Registers and the port -/

/-- A register write is read back, except that SP masks it and the PC is not written this way (R12, R24). -/
theorem x32_writeX_same (s : State) {r : RegNum} (v : Word) (h13 : r ≠ 13#4) (h15 : r ≠ 15#4) :
    (s.writeX r v).x32 r = v := by
  simp [State.x32, State.readX_writeX, h13, h15]

theorem x32_writeX_ne (s : State) {r r' : RegNum} (v : Word) (h : r' ≠ r) : (s.writeX r v).x32 r' = s.x32 r' := by
  simp [State.x32, State.readX_writeX, h]

/-- What the port admits depends on the region map alone (assumption log 3). -/
theorem writable_congr {t : State} (h : t.regions = s.regions) (a : Word) (sz : Size) :
    t.writable a sz = s.writable a sz := by
  unfold State.writable
  rw [h]

@[simp] theorem afterRead_psr (s : State) (a : Word) (sz : Size) : (s.afterRead a sz).psr = s.psr := by
  unfold State.afterRead
  split <;> rfl

@[simp] theorem afterRead_regions (s : State) (a : Word) (sz : Size) : (s.afterRead a sz).regions = s.regions := by
  unfold State.afterRead
  split <;> rfl

@[simp] theorem afterRead_x32 (s : State) (a : Word) (sz : Size) (r : RegNum) :
    (s.afterRead a sz).x32 r = s.x32 r := by
  unfold State.afterRead
  split <;> rfl

@[simp] theorem afterWrite_psr (s : State) (a : Word) (sz : Size) (v : Word) :
    (s.afterWrite a sz v).psr = s.psr := by
  unfold State.afterWrite
  split <;> rfl

@[simp] theorem afterWrite_x32 (s : State) (a : Word) (sz : Size) (v : Word) (r : RegNum) :
    (s.afterWrite a sz v).x32 r = s.x32 r := by
  unfold State.afterWrite
  split <;> rfl

@[simp] theorem setExcl_x32 (s : State) (e : List ExclRecord) (r : RegNum) : (s.setExcl e).x32 r = s.x32 r := rfl

/-! ### The outcomes -/

/-- R75: a reservation does not survive the check that finds it. -/
theorem exclusiveHit_consumeExclusive (s : State) (a : Word) (sz : Size) :
    (s.consumeExclusive a sz).exclusiveHit a sz = false := by
  simp only [State.exclusiveHit, List.contains_eq_mem, decide_eq_false_iff_not]
  exact fun hmem => absurd (consumeExclusive_none s a sz _ hmem) (by simp [exclRecord_overlaps])

/-- R301: an admitted exclusive load. -/
theorem loadExclusive_ok (rt : RegNum) {a : Word} {sz : Size} (ha : aligned a sz = true)
    (hr : s.readable a sz = true) :
    loadExclusive rt a sz s =
      .next (((s.afterRead a sz).setExclusive a sz).writeX rt (s.readValue a sz)) := by
  simp [loadExclusive, loadA_eq, ha, hr, Access.andThen]

/-- R300, R75: with a matching reservation and an admitted store. -/
theorem storeExclusive_hit (rd : RegNum) {a : Word} {sz : Size} (v : Word) (ha : aligned a sz = true)
    (hhit : s.exclusiveHit a sz = true) (hw : s.writable a sz = true) :
    storeExclusive rd a sz v s = .next (((s.afterWrite a sz v).consumeExclusive a sz).writeX rd 0) := by
  simp [storeExclusive, storeU_eq, ha, hhit, hw, Access.andThen]

/-- R300, R75: without a matching reservation. -/
theorem storeExclusive_miss (rd : RegNum) {a : Word} {sz : Size} (v : Word) (ha : aligned a sz = true)
    (hmiss : s.exclusiveHit a sz = false) :
    storeExclusive rd a sz v s = .next ((s.consumeExclusive a sz).writeX rd 1) := by
  simp [storeExclusive, ha, hmiss]

/-! ### The instructions -/

theorem exec_ldrex {rn rt : RegNum} (sb : BitVec 4) {imm8 : BitVec 8} {a : Word}
    (hu : ldrexUnpredictable rn rt = false) (hc : s.psr.conditionPassed = true) (ha : a = s.x32 rn + immWord imm8) :
    exec (.ldrex rn rt sb imm8) s = loadExclusive rt a .word s := by
  subst ha
  exact guarded_run hu hc

theorem exec_strex {rn rt rd : RegNum} {imm8 : BitVec 8} {a : Word} (hu : strexUnpredictable rn rt rd = false)
    (hc : s.psr.conditionPassed = true) (ha : a = s.x32 rn + immWord imm8) :
    exec (.strex rn rt rd imm8) s = storeExclusive rd a .word (s.x32 rt) s := by
  subst ha
  exact guarded_run hu hc

theorem strexUnpredictable_eq_false {rn rt rd : RegNum} (h : strexUnpredictable rn rt rd = false) :
    rd ≠ 13#4 ∧ rd ≠ 15#4 ∧ rn ≠ rd := by
  simp only [strexUnpredictable, spOrPc, Bool.or_eq_false_iff, beq_eq_false_iff_ne] at h
  obtain ⟨⟨⟨⟨⟨h13, h15⟩, _⟩, _⟩, hne⟩, _⟩ := h
  exact ⟨h13, h15, hne.symm⟩

/-- A change of registers or records after a store leaves what the store left in memory. -/
theorem StoredAt.congr_right {t t' : State} {a : Word} {sz : Size} {v : Word} (h : StoredAt s t a sz v)
    (hmem : t'.mem = t.mem) : StoredAt s t' a sz v := by
  simp only [StoredAt, SameMemoryOutside, SameMemory, hmem] at h ⊢
  exact h

/-- R301: LDREX at an aligned, admitted address leaves a reservation there and keeps its base. -/
theorem ldrex_reserves {rn rt : RegNum} (sb : BitVec 4) {imm8 : BitVec 8} {a : Word}
    (hu : ldrexUnpredictable rn rt = false) (hne : rn ≠ rt) (hc : s.psr.conditionPassed = true)
    (ha : a = s.x32 rn + immWord imm8) (haligned : aligned a .word = true) (hr : s.readable a .word = true) :
    ∃ t, exec (.ldrex rn rt sb imm8) s = .next t ∧ t.psr = s.psr ∧ t.regions = s.regions ∧ t.x32 rn = s.x32 rn ∧
      t.exclusiveHit a .word = true := by
  refine ⟨_, (exec_ldrex sb hu hc ha).trans (loadExclusive_ok rt haligned hr), ?_, ?_, ?_, ?_⟩
  · simp [State.setExclusive]
  · simp [State.setExclusive]
  · simp [State.setExclusive, x32_writeX_ne _ _ hne]
  · simpa [State.exclusiveHit] using exclusiveHit_setExclusive (s.afterRead a .word) a .word

/-- R300: STREX where its reservation stands and the store is admitted: it stores, answers 0, keeps its base and leaves
no reservation. -/
theorem strex_succeeds {rn rt rd : RegNum} {imm8 : BitVec 8} {a : Word} (hu : strexUnpredictable rn rt rd = false)
    (hc : s.psr.conditionPassed = true) (ha : a = s.x32 rn + immWord imm8) (haligned : aligned a .word = true)
    (hhit : s.exclusiveHit a .word = true) (hw : s.writable a .word = true) :
    ∃ t, exec (.strex rn rt rd imm8) s = .next t ∧ t.psr = s.psr ∧ t.x32 rn = s.x32 rn ∧ t.x32 rd = 0#32 ∧
      StoredAt s t a .word (s.x32 rt) ∧ t.exclusiveHit a .word = false := by
  obtain ⟨h13, h15, hne⟩ := strexUnpredictable_eq_false hu
  refine ⟨_, (exec_strex hu hc ha).trans (storeExclusive_hit rd _ haligned hhit hw), ?_, ?_,
    x32_writeX_same _ _ h13 h15, ?_, ?_⟩
  · simp [State.consumeExclusive]
  · simp [State.consumeExclusive, x32_writeX_ne _ _ hne]
  · exact (afterWrite_storedAt s a .word (s.x32 rt)).congr_right (by simp [State.consumeExclusive])
  · simpa [State.exclusiveHit] using exclusiveHit_consumeExclusive (s.afterWrite a .word (s.x32 rt)) a .word

/-- R300: STREX without a reservation answers 1 and stores nothing. -/
theorem strex_fails {rn rt rd : RegNum} {imm8 : BitVec 8} {a : Word} (hu : strexUnpredictable rn rt rd = false)
    (hc : s.psr.conditionPassed = true) (ha : a = s.x32 rn + immWord imm8) (haligned : aligned a .word = true)
    (hmiss : s.exclusiveHit a .word = false) :
    ∃ t, exec (.strex rn rt rd imm8) s = .next t ∧ t.x32 rd = 1#32 ∧ SameMemory s t := by
  obtain ⟨h13, h15, _⟩ := strexUnpredictable_eq_false hu
  refine ⟨_, (exec_strex hu hc ha).trans (storeExclusive_miss rd _ haligned hmiss),
    x32_writeX_same _ _ h13 h15, fun b => ?_⟩
  simp [State.consumeExclusive]

/-- Settles O44: the load leaves a reservation, the first store finds and consumes it, the second finds none; the base
register keeps its value, so all three are at one address. -/
theorem ldrexStrexForwardProgress : Obligations.LdrexStrexForwardProgress := by
  intro s rn rt rt2 rd sb imm8 hc hul hus hne a ha hr hw
  have haligned : aligned a .word = true := beq_iff_eq.mpr ha
  obtain ⟨s1, hload, hpsr1, hregions, hbase1, hhit⟩ := ldrex_reserves sb hul hne hc rfl haligned hr
  have hc1 : s1.psr.conditionPassed = true := hpsr1 ▸ hc
  have hw1 : s1.writable a .word = true := (writable_congr hregions a .word).trans hw
  have ha1 : a = s1.x32 rn + immWord imm8 := by rw [hbase1]; rfl
  obtain ⟨s2, hstore, hpsr2, hbase2, hzero, hstored, hmiss⟩ := strex_succeeds hus hc1 ha1 haligned hhit hw1
  obtain ⟨s3, hagain, hone, hsame⟩ := strex_fails hus (hpsr2 ▸ hc1) (hbase2 ▸ ha1) haligned hmiss
  exact ⟨s1, s2, s3, hload, hstore, hzero, hstored, hagain, hone, hsame⟩

end Sys2Proof.Machine
end

section
/-! Transfers of several words (20_memory.md R63, R65, R67; 92_eei_decisions.md D6): what a run of word stores or loads
leaves where all its words are admitted, where one is refused and where the first address is misaligned, and the one
shape that the instructions of `StoreForm` and of `LoadForm` share. -/

namespace Sys2Proof.Machine

variable {s : State}

/-! ### Register lists -/

theorem mem_regsOf (r : RegNum) (mask : BitVec 16) : r ∈ regsOf mask ↔ mask.getLsbD r.toNat = true := by
  have hall : ∀ r : RegNum, r ∈ allRegs := by decide
  simp [regsOf, hall]

theorem length_regsOf_le (mask : BitVec 16) : (regsOf mask).length ≤ 16 := List.length_filter_le _ _

theorem mem_regsOf_maskLow (n : LowReg) (l : BitVec 8) : lo n ∈ regsOf (maskLow l) ↔ l.getLsbD n.toNat = true := by
  have hn := n.isLt
  rw [mem_regsOf, lo_toNat]
  simp only [maskLow, BitVec.getLsbD_setWidth, Bool.and_eq_true, decide_eq_true_eq]
  exact and_iff_right (by omega)

/-! ### Word addresses -/

theorem wordAt_wordAt (a : Word) (j k : Nat) : wordAt (wordAt a j) k = wordAt a (j + k) := by
  induction j generalizing a with
  | zero => simp
  | succ j ih => rw [← wordAt_succ, ih, wordAt_succ, Nat.succ_add]

theorem aligned_wordAt {a : Word} (h : aligned a .word = true) (j : Nat) : aligned (wordAt a j) .word = true := by
  induction j generalizing a with
  | zero => simpa using h
  | succ j ih =>
    rw [← wordAt_succ]
    exact ih (aligned_add_four h)

/-- Two words of an aligned run shorter than the address space do not meet (R80). -/
theorem wordAt_disjoint {a : Word} (h : aligned a .word = true) {j : Nat} (hpos : 0 < j) (hj : 4 * j < 2 ^ 32)
    {b : Nat} (hb : a.toNat ≤ b ∧ b < a.toNat + 4) :
    ¬((wordAt a j).toNat ≤ b ∧ b < (wordAt a j).toNat + 4) := by
  have ha := a.isLt
  have hword : (wordAt a j).toNat = (a.toNat + 4 * j) % 2 ^ 32 := by
    rw [wordAt, BitVec.toNat_add, BitVec.toNat_ofNat, Nat.mod_eq_of_lt hj]
  simp only [aligned, Size.bytes, beq_iff_eq] at h
  omega

/-! ### Sequences of accesses -/

@[simp] theorem Access.ok_bind {α β : Type} (v : α) (s : State) (k : α → State → Access β) :
    (Access.ok v s).bind k = k v s := rfl

theorem Access.bind_assoc {α β γ : Type} (x : Access α) (k : α → State → Access β) (k' : β → State → Access γ) :
    (x.bind k).bind k' = x.bind fun v s => (k v s).bind k' := by
  cases x <;> rfl

/-! ### Stores -/

theorem storeWords_append (ws ws' : List Word) (s : State) (a : Word) :
    s.storeWords a (ws ++ ws') = (s.storeWords a ws).bind fun _ t => t.storeWords (wordAt a ws.length) ws' := by
  induction ws generalizing s a with
  | nil => simp [State.storeWords]
  | cons w rest ih =>
    simp only [List.cons_append, State.storeWords, ih, Access.bind_assoc, List.length_cons, wordAt_succ]

/-- An admitted store changes nothing but memory. -/
theorem afterWrite_eq_setMem (s : State) (a : Word) (sz : Size) (v : Word) :
    s.afterWrite a sz v = s.setMem (s.afterWrite a sz v).mem := by
  unfold State.afterWrite
  split <;> rfl

/-- An admitted word store changes the four bytes at its address only, and leaves the word there unless a device took
it (R62). -/
theorem storeA_ok (s : State) {a : Word} (w : Word) (ha : aligned a .word = true) (hw : s.writable a .word = true) :
    ∃ m, s.storeA a .word w = .ok () (s.setMem m) ∧ SameMemoryOutside s (s.setMem m) a.toNat 4 ∧
      (s.isDevice a .word = false → m.readLE a.toNat 4 = w) := by
  refine ⟨(s.afterWrite a .word w).mem, ?_, (afterWrite_storedAt s a .word w).1, fun hplain => ?_⟩
  · rw [storeA_eq, if_pos ha, if_pos hw, ← afterWrite_eq_setMem]
  · simp [State.afterWrite, hplain, Size.bytes, Memory.readLE_writeLE]

/-- A property of every word of a run holds of the words after the first. -/
theorem forall_wordAt_tail {P : Word → Prop} {a : Word} {n : Nat} (h : ∀ j < n + 1, P (wordAt a j)) :
    ∀ j < n, P (wordAt (a + 4) j) := fun j hj => by
  rw [wordAt_succ]
  exact h (j + 1) (by omega)

/-- Word stores to writable, aligned addresses all succeed; they change the bytes of those words only, and each word
holds what was stored to it (R62, R63). -/
theorem storeWords_ok (ws : List Word) (s : State) (a : Word) (ha : aligned a .word = true)
    (hw : s.wordsWritable a ws.length) :
    ∃ m, s.storeWords a ws = .ok () (s.setMem m) ∧ SameMemoryOutsideWords s (s.setMem m) a ws.length ∧
      (s.wordsPlain a ws.length → 4 * ws.length < 2 ^ 32 →
        ∀ (j : Nat) (w : Word), ws[j]? = some w → m.readLE (wordAt a j).toNat 4 = w) := by
  induction ws generalizing s a with
  | nil => exact ⟨s.mem, rfl, fun _ _ => rfl, fun _ _ j w h => by simp at h⟩
  | cons w rest ih =>
    obtain ⟨m1, hstore1, hframe1, hheld1⟩ := storeA_ok s w ha (by simpa using hw 0 (by simp))
    obtain ⟨m, hstore, hframe, hheld⟩ := ih (s.setMem m1) (a + 4) (aligned_add_four ha)
      (forall_wordAt_tail (P := fun x => s.writable x .word = true) hw)
    have hlater : ∀ b, (∀ j < rest.length, ¬((wordAt a (j + 1)).toNat ≤ b ∧ b < (wordAt a (j + 1)).toNat + 4)) →
        m.readByte b = m1.readByte b := by
      simp only [← wordAt_succ]
      exact hframe
    refine ⟨m, ?_, fun b hb => ?_, fun hp hlen j v hv => ?_⟩
    · rw [State.storeWords, hstore1]
      exact hstore
    · have houtside : ¬(a.toNat ≤ b ∧ b < a.toNat + 4) := by simpa using hb 0 (by simp)
      exact (hlater b fun j hj => hb (j + 1) (by simpa using hj)).trans (hframe1 b houtside)
    · rw [List.length_cons] at hlen
      cases j with
      | zero =>
        have hkept : m.readLE a.toNat 4 = m1.readLE a.toNat 4 := Memory.readLE_congr _ _ fun b hlow hhigh =>
          hlater b fun k hk => wordAt_disjoint ha k.succ_pos (by omega) ⟨hlow, hhigh⟩
        rw [wordAt_zero, hkept, hheld1 (by simpa using hp 0 (by simp))]
        simpa using hv
      | succ j =>
        rw [← wordAt_succ]
        exact hheld (forall_wordAt_tail (P := fun x => s.isDevice x .word = false) hp) (by omega) j v hv

/-- Word stores up to a refused one: the earlier stores stay and the LOG names the refused address (R67, D6). -/
theorem storeWords_refused {ws : List Word} (s : State) {a : Word} {j : Nat} (ha : aligned a .word = true)
    (hj : j < ws.length) (hw : s.wordsWritable a j) (hrefused : s.writable (wordAt a j) .word = false) :
    ∃ m, s.storeWords a ws = .failed ((s.setMem m).emit (.accessFailed (wordAt a j))) ∧
      SameMemoryOutsideWords s (s.setMem m) a j ∧
      (s.wordsPlain a j → 4 * j < 2 ^ 32 →
        ∀ (k : Nat) (w : Word), (ws.take j)[k]? = some w → m.readLE (wordAt a k).toNat 4 = w) := by
  have hlen : (ws.take j).length = j := List.length_take_of_le hj.le
  obtain ⟨m, hstore, hframe, hheld⟩ := storeWords_ok (ws.take j) s a ha (by rwa [hlen])
  rw [hlen] at hframe hheld
  refine ⟨m, ?_, hframe, hheld⟩
  have hrefused' : (s.setMem m).writable (wordAt a j) .word = false := hrefused
  rw [← List.take_append_drop j ws, storeWords_append, hstore, hlen, List.drop_eq_getElem_cons hj]
  simp [Access.bind, State.storeWords, storeA_eq, aligned_wordAt ha, hrefused']

/-- A run of stores from a misaligned address makes none (R65). -/
theorem storeWords_misaligned {ws : List Word} (s : State) {a : Word} (ha : aligned a .word = false)
    (hne : 0 < ws.length) : s.storeWords a ws = .failed (s.rejectMisaligned a) := by
  cases ws with
  | nil => simp at hne
  | cons w rest => simp [State.storeWords, storeA_eq, ha, Access.bind]

/-! ### Loads -/

theorem loadRegs_append (rs rs' : List RegNum) (s : State) (a : Word) :
    s.loadRegs a (rs ++ rs') =
      (s.loadRegs a rs).bind fun vs t => (t.loadRegs (wordAt a rs.length) rs').bind fun vs' u => .ok (vs ++ vs') u := by
  induction rs generalizing s a with
  | nil =>
    simp only [List.nil_append, State.loadRegs, Access.ok_bind, List.length_nil, wordAt_zero]
    cases s.loadRegs a rs' <;> rfl
  | cons r rest ih =>
    simp only [List.cons_append, State.loadRegs, ih, Access.bind_assoc, Access.ok_bind, List.length_cons, wordAt_succ]

/-- Word loads up to a refused one: nothing but the LOG, which names the refused address, and the draws (R67). -/
theorem loadRegs_refused {regs : List RegNum} (s : State) {a : Word} {j : Nat} (ha : aligned a .word = true)
    (hj : j < regs.length) (hr : s.wordsReadable a j) (hrefused : s.readable (wordAt a j) .word = false) :
    ∃ ix, s.loadRegs a regs = .failed { s with log := .accessFailed (wordAt a j) :: s.log, freeIx := ix } := by
  have hlen : (regs.take j).length = j := List.length_take_of_le hj.le
  obtain ⟨vs, ix, hload, _, _⟩ := loadRegs_ok (regs.take j) s a ha (by rwa [hlen])
  refine ⟨ix, ?_⟩
  have hrefused' : ({ s with freeIx := ix } : State).readable (wordAt a j) .word = false := hrefused
  rw [← List.take_append_drop j regs, loadRegs_append, hload, hlen, List.drop_eq_getElem_cons hj]
  simp [Access.bind, State.loadRegs, loadA_eq, aligned_wordAt ha, hrefused', State.emit]

/-- A run of loads from a misaligned address makes none (R65). -/
theorem loadRegs_misaligned {regs : List RegNum} (s : State) {a : Word} (ha : aligned a .word = false)
    (hne : 0 < regs.length) : s.loadRegs a regs = .failed (s.rejectMisaligned a) := by
  cases regs with
  | nil => simp at hne
  | cons r rest => simp [State.loadRegs, loadA_eq, ha, Access.bind]

/-! ### The shape of a store transfer -/

/-- What every instruction of `StoreForm` does: the registers, at their old values, to the words from `start`, then the
write-back. -/
def storeTransfer (regs : List RegNum) (start : Word) (wb : Option (RegNum × Word)) (s : State) : Result :=
  (s.storeWords start (regs.map s.x32)).andThen fun _ t => .next (t.writeBack wb)

theorem storeMultiple_eq (mask : BitVec 16) (start : Word) (wb : Option (RegNum × Word)) (s : State) :
    storeMultiple mask start wb s = storeTransfer (regsOf mask) start wb s := rfl

theorem storeDual_eq (rt rt2 : RegNum) (a : Word) (wb : Option (RegNum × Word)) (s : State) :
    storeDual rt rt2 a wb s = storeTransfer [rt, rt2] a wb s := rfl

/-- A 16-bit and a 32-bit instruction read a low register alike (R12, R27). -/
theorem x16_lo (s : State) (n : LowReg) : s.x16 (lo n) = s.x32 (lo n) := by
  have hn := n.isLt
  simp [State.x16, State.x32, State.readX, lo_toNat, show n.toNat < 13 by omega]

/-- The operands that a multiple transfer with write-back may have (R290, R291, R293, R295). -/
theorem multipleUnpredictable_eq_false {w : Bool} {n : RegNum} {mask : BitVec 16} {k : Nat} (hk : 2 ≤ k)
    (hn : n ≠ 15#4) (hw : ¬(w = true ∧ n ∈ regsOf mask)) : multipleUnpredictable w n mask k = false := by
  rw [mem_regsOf] at hw
  have hk' : ¬k < 2 := by omega
  simpa [multipleUnpredictable, hn, hk'] using hw

theorem spOrPc_eq_false {r : RegNum} (h : r ∉ [13#4, 15#4]) : spOrPc r = false := by
  simpa [spOrPc] using h

/-- R260, R280, R290, R293, R294, R302: an instruction of a store form whose condition passes is that transfer. -/
theorem exec_of_storeForm {i : Instr} {regs : List RegNum} {start : Word} {wb : Option (RegNum × Word)}
    (hf : StoreForm s i regs start wb) (hc : s.psr.conditionPassed = true) :
    exec i s = storeTransfer regs start wb s := by
  cases hf with
  | stm n l hcount =>
    rw [← storeMultiple_eq, ← x16_lo]
    exact guarded_run (decide_eq_false (Nat.not_lt.mpr hcount)) hc
  | push m l start hcount hstart =>
    rw [← storeMultiple_eq, hstart]
    exact guarded_run (decide_eq_false (Nat.not_lt.mpr hcount)) hc
  | pushW _ m _ l start hcount hstart =>
    rw [← storeMultiple_eq, hstart]
    exact guarded_run (decide_eq_false (Nat.not_lt.mpr hcount)) hc
  | stmW w n _ m _ l hcount hn hw =>
    rw [← storeMultiple_eq]
    exact guarded_run (multipleUnpredictable_eq_false hcount hn hw) hc
  | stmdb w n _ m _ l start hcount hn hw hstart =>
    rw [← storeMultiple_eq, hstart]
    exact guarded_run (multipleUnpredictable_eq_false hcount hn hw) hc
  | strd p u w n t t2 imm offset hw hn ht ht2 hoffset =>
    rw [← storeDual_eq, hoffset]
    refine guarded_run ?_ hc
    simpa [spOrPc_eq_false ht, spOrPc_eq_false ht2, hn] using hw

/-- A store form transfers one to sixteen registers. -/
theorem StoreForm.length_bounds {i : Instr} {regs : List RegNum} {start : Word} {wb : Option (RegNum × Word)}
    (hf : StoreForm s i regs start wb) : 0 < regs.length ∧ regs.length ≤ 16 := by
  cases hf with
  | stm _ l hcount | push _ l _ hcount => exact ⟨hcount, length_regsOf_le _⟩
  | pushW _ _ _ _ _ hcount | stmW _ _ _ _ _ _ hcount | stmdb _ _ _ _ _ _ _ hcount =>
    exact ⟨Nat.zero_lt_of_lt hcount, length_regsOf_le _⟩
  | strd => simp

/-! ### The shape of a load transfer -/

/-- What every instruction of `LoadForm` does: the registers from the words from `start` and, where `pc`, the PC from
the next word, with the write-back before the PC is written. -/
def loadTransfer (regs : List RegNum) (pc : Bool) (start : Word) (wb : Option (RegNum × Word)) (s : State) : Result :=
  (s.loadRegs start regs).andThen fun vs t =>
    if pc then
      (t.loadA (wordAt start regs.length) .word).andThen fun target u => ((u.writeAll vs).writeBack wb).bxWritePC target
    else .next ((t.writeAll vs).writeBack wb)

theorem loadMultiple_eq (mask : BitVec 16) (pc : Bool) (start : Word) (wb : Option (RegNum × Word)) (s : State) :
    loadMultiple mask pc start wb s = loadTransfer (regsOf mask) pc start wb s := rfl

theorem loadDual_eq (rt rt2 : RegNum) (a : Word) (wb : Option (RegNum × Word)) (s : State) :
    loadDual rt rt2 a wb s = loadTransfer [rt, rt2] false a wb s := by
  simp only [loadDual, loadTransfer, State.loadRegs, State.loadWords]
  cases s.loadA a .word with
  | failed t => rfl
  | ok v t =>
    simp only [Access.bind]
    cases t.loadA (a + 4) .word <;> rfl

theorem pcInIT_eq_false {p : Bool} (hit : ¬(p = true ∧ s.midIT)) : (p && s.psr.inITNotLast) = false := by
  simpa [State.midIT, Psr.inITNotLast] using hit

/-- The lists that may name the PC (R291, R292, R295). -/
theorem pcListUnpredictable_eq_false {p m : Bool} (hpm : ¬(p = true ∧ m = true)) (hit : ¬(p = true ∧ s.midIT)) :
    pcListUnpredictable p m s = false :=
  Bool.or_eq_false_iff.mpr ⟨by simpa using hpm, pcInIT_eq_false hit⟩

/-- R261, R281, R291, R292, R295, R303, R304: an instruction of a load form whose condition passes is that transfer. -/
theorem exec_of_loadForm {i : Instr} {regs : List RegNum} {pc : Bool} {start : Word} {wb : Option (RegNum × Word)}
    (hf : LoadForm s i regs pc start wb) (hc : s.psr.conditionPassed = true) :
    exec i s = loadTransfer regs pc start wb s := by
  cases hf with
  | ldm n l hcount =>
    simp only [← loadMultiple_eq, ← x16_lo, mem_regsOf_maskLow]
    exact guarded_run (decide_eq_false (Nat.not_lt.mpr hcount)) hc
  | pop p l hcount hit =>
    rw [← loadMultiple_eq]
    exact guarded_run (Bool.or_eq_false_iff.mpr ⟨decide_eq_false (Nat.not_lt.mpr hcount), pcInIT_eq_false hit⟩) hc
  | popW p m _ l hcount hpm hit =>
    rw [← loadMultiple_eq]
    exact guarded_run (Bool.or_eq_false_iff.mpr
      ⟨decide_eq_false (Nat.not_lt.mpr hcount), pcListUnpredictable_eq_false hpm hit⟩) hc
  | ldmW w n p m _ l hcount hn hw hpm hit =>
    rw [← loadMultiple_eq]
    exact guarded_run (Bool.or_eq_false_iff.mpr
      ⟨multipleUnpredictable_eq_false hcount hn hw, pcListUnpredictable_eq_false hpm hit⟩) hc
  | ldmdb w n p m _ l start hcount hn hw hpm hit hstart =>
    rw [← loadMultiple_eq, hstart]
    exact guarded_run (Bool.or_eq_false_iff.mpr
      ⟨multipleUnpredictable_eq_false hcount hn hw, pcListUnpredictable_eq_false hpm hit⟩) hc
  | ldrd p u w n t t2 imm offset hw hn ht ht2 hne hoffset =>
    rw [← loadDual_eq, hoffset]
    refine guarded_run ?_ hc
    simpa [spOrPc_eq_false ht, spOrPc_eq_false ht2, hne] using hw
  | ldrdLit p u t t2 imm ht ht2 hne =>
    rw [← loadDual_eq]
    refine guarded_run ?_ hc
    simp [spOrPc_eq_false ht, spOrPc_eq_false ht2, hne]

/-- A load form transfers at least one register or the PC. -/
theorem LoadForm.length_pos {i : Instr} {regs : List RegNum} {pc : Bool} {start : Word}
    {wb : Option (RegNum × Word)} (hf : LoadForm s i regs pc start wb) : 0 < regs.length + pc.toNat := by
  cases hf with
  | ldm _ _ hcount | pop _ _ hcount => exact hcount
  | popW _ _ _ _ hcount | ldmW _ _ _ _ _ _ hcount | ldmdb _ _ _ _ _ _ _ hcount => exact Nat.zero_lt_of_lt hcount
  | ldrd | ldrdLit => simp

/-! ### Transfers that fail -/

/-- R65, R67: a store transfer from a misaligned address only logs. -/
theorem storeTransfer_misaligned {regs : List RegNum} {start : Word} (wb : Option (RegNum × Word)) (s : State)
    (ha : aligned start .word = false) (hne : 0 < regs.length) :
    storeTransfer regs start wb s = .next (s.rejectMisaligned start) := by
  rw [storeTransfer, storeWords_misaligned s ha (by simpa using hne)]
  rfl

/-- R65, R67: a load transfer from a misaligned address only logs, the PC alone being a transfer too. -/
theorem loadTransfer_misaligned {regs : List RegNum} {pc : Bool} {start : Word} (wb : Option (RegNum × Word))
    (s : State) (ha : aligned start .word = false) (hne : 0 < regs.length + pc.toNat) :
    loadTransfer regs pc start wb s = .next (s.rejectMisaligned start) := by
  unfold loadTransfer
  cases regs with
  | cons r rest =>
    rw [loadRegs_misaligned s ha (by simp)]
    rfl
  | nil =>
    cases pc with
    | false => simp at hne
    | true => simp [State.loadRegs, Access.andThen, loadA_eq, ha]

/-- R67, D6: a load transfer with a refused word commits nothing, whether the word is a register's or the PC's. -/
theorem loadTransfer_refused {regs : List RegNum} {pc : Bool} {start : Word} (wb : Option (RegNum × Word)) (s : State)
    {j : Nat} (ha : aligned start .word = true) (hj : j < regs.length + pc.toNat) (hr : s.wordsReadable start j)
    (hrefused : s.readable (wordAt start j) .word = false) :
    ∃ ix, loadTransfer regs pc start wb s =
      .next { s with log := .accessFailed (wordAt start j) :: s.log, freeIx := ix } := by
  unfold loadTransfer
  by_cases hreg : j < regs.length
  · obtain ⟨ix, hload⟩ := loadRegs_refused s ha hreg hr hrefused
    exact ⟨ix, by rw [hload]; rfl⟩
  · have hle := pc.toNat_le
    obtain rfl : j = regs.length := by omega
    obtain rfl : pc = true := Bool.toNat_eq_one.mp (by omega)
    obtain ⟨vs, ix, hload, _, _⟩ := loadRegs_ok regs s start ha hr
    have hrefused' : ({ s with freeIx := ix } : State).readable (wordAt start regs.length) .word = false := hrefused
    refine ⟨ix, ?_⟩
    simp [hload, Access.andThen, loadA_eq, aligned_wordAt ha, hrefused', State.emit]

/-- R67, D6: a store transfer with a refused word keeps the words it wrote and commits nothing else. -/
theorem storeTransfer_refused {regs : List RegNum} {start : Word} (wb : Option (RegNum × Word)) (s : State) {j : Nat}
    (ha : aligned start .word = true) (hj : j < regs.length) (hlen : regs.length ≤ 16) (hw : s.wordsWritable start j)
    (hp : s.wordsPlain start j) (hrefused : s.writable (wordAt start j) .word = false) :
    ∃ m, storeTransfer regs start wb s = .next ((s.setMem m).emit (.accessFailed (wordAt start j))) ∧
      StoredWords s (s.setMem m) start (regs.take j) := by
  obtain ⟨m, hstore, hframe, hheld⟩ := storeWords_refused (ws := regs.map s.x32) s ha (by simpa using hj) hw hrefused
  refine ⟨m, by rw [storeTransfer, hstore]; rfl, ?_, fun k r hk => hheld hp (by omega) k (s.x32 r) ?_⟩
  · rwa [List.length_take_of_le hj.le]
  · rw [← List.map_take, List.getElem?_map, hk]
    rfl

/-- Settles O31: both transfer shapes reject a misaligned first address before anything else. -/
theorem misalignedTransfersAreLoggedNoOps : Obligations.MisalignedTransfersAreLoggedNoOps := by
  intro s i regs pc start wb hc ha hf
  have hmisaligned : aligned start .word = false := beq_eq_false_iff_ne.mpr ha
  rcases hf with hstore | hload
  · exact (exec_of_storeForm hstore hc).trans (storeTransfer_misaligned wb s hmisaligned hstore.length_bounds.1)
  · exact (exec_of_loadForm hload hc).trans (loadTransfer_misaligned wb s hmisaligned hload.length_pos)

/-- Settles O30: the run of accesses up to the refused word, and that the transfer ends there. -/
theorem refusedWordsOfMultipleTransfers : Obligations.RefusedWordsOfMultipleTransfers := by
  intro s i regs pc start wb j hc ha
  have haligned : aligned start .word = true := beq_iff_eq.mpr ha
  refine ⟨fun hf hj hw hp hrefused => ?_, fun hf hj hr hrefused => ?_⟩
  · obtain ⟨m, hexec, hstored⟩ := storeTransfer_refused wb s haligned hj hf.length_bounds.2 hw hp hrefused
    refine ⟨_, (exec_of_storeForm hf hc).trans hexec, hstored, rfl, ⟨fun _ _ _ => rfl, ?_⟩, ?_, rfl, rfl, rfl⟩
    · split <;> rfl
    · constructor <;> rfl
  · obtain ⟨ix, hexec⟩ := loadTransfer_refused wb s haligned hj hr hrefused
    exact ⟨ix, (exec_of_loadForm hf hc).trans hexec⟩

end Sys2Proof.Machine
end

section
/-! The fields of a halfword: `bits` and `bitAt` of a halfword written as its parts, and the value of a halfword put
together from its fields (30_encoding.md R101 to R103). -/

namespace Sys2Proof

/-! ### Reading a field of a concatenation -/

/-- A field that lies below, or not below, the last `w` bits of a concatenation. `w` is given because a halfword's type
says 16 and not the sum of the widths of its parts. -/
theorem extractLsb'_append (w : Nat) :
    (∀ {v lo len : Nat} (x : BitVec v) (y : BitVec w), lo + len ≤ w →
        (x ++ y).extractLsb' lo len = y.extractLsb' lo len) ∧
      ∀ {v lo len : Nat} (x : BitVec v) (y : BitVec w), w ≤ lo →
        (x ++ y).extractLsb' lo len = x.extractLsb' (lo - w) len :=
  ⟨fun _ _ => BitVec.extractLsb'_append_eq_of_add_le, fun _ _ => BitVec.extractLsb'_append_eq_of_le⟩

theorem bitAt_eq_bits (hw : Half) (k : Nat) : bitAt hw k = (bits hw k 1 == 1#1) := by
  rw [bits, Bool.eq_iff_iff, beq_iff_eq, ← BitVec.toNat_inj]
  simp [bitAt, BitVec.getLsbD, Nat.testBit, Nat.shiftRight_eq_div_pow, Nat.one_and_eq_mod_two]

theorem bit_true : bit true = 1#1 := rfl

theorem bit_false : bit false = 0#1 := rfl

theorem bit_beq_one (v : Bool) : (bit v == 1#1) = v := by
  cases v <;> rfl

/-- R103: a register number is the high bit and the low bits that the special-data rows write apart. -/
theorem splitReg_append (r : RegNum) : r.extractLsb' 3 1 ++ r.extractLsb' 0 3 = r :=
  BitVec.extractLsb'_append_extractLsb' (w := 1)

/-- R62: the two bytes of a halfword, read back. -/
theorem halfOfBytes_bytesOfHalf (hw : Half) : halfOfBytes (hw.extractLsb' 0 8) (hw.extractLsb' 8 8) = hw :=
  BitVec.extractLsb'_append_extractLsb' (w := 8)

end Sys2Proof
end

section
/-! Decoding undoes encoding (30_encoding.md R90, R101 to R112): the tables read back, row by row, what the encoder
wrote. -/

namespace Sys2Proof

open Laws.EncodedLength in
/-- R90: the length of every well-formed instruction's encoding agrees with its first halfword. -/
theorem encodedLength : (i : Instr) → Statement i
  | .lslImm .. => lslImm _ _ _ | .movsReg .. => movsReg _ _ | .lsrImm .. => lsrImm _ _ _ | .asrImm .. => asrImm _ _ _
  | .addReg .. => addReg _ _ _ | .subReg .. => subReg _ _ _ | .addImm3 .. => addImm3 _ _ _
  | .subImm3 .. => subImm3 _ _ _ | .movImm .. => movImm _ _ | .cmpImm .. => cmpImm _ _ | .addImm8 .. => addImm8 _ _
  | .subImm8 .. => subImm8 _ _ | .andReg .. => andReg _ _ | .eorReg .. => eorReg _ _ | .lslReg .. => lslReg _ _
  | .lsrReg .. => lsrReg _ _ | .asrReg .. => asrReg _ _ | .adcReg .. => adcReg _ _ | .sbcReg .. => sbcReg _ _
  | .rorReg .. => rorReg _ _ | .tstReg .. => tstReg _ _ | .rsbImm0 .. => rsbImm0 _ _ | .cmpReg .. => cmpReg _ _
  | .cmnReg .. => cmnReg _ _ | .orrReg .. => orrReg _ _ | .mulReg .. => mulReg _ _ | .bicReg .. => bicReg _ _
  | .mvnReg .. => mvnReg _ _ | .addHi .. => addHi _ _ | .unpredCmpLowLow .. => unpredCmpLowLow _
  | .cmpHi .. => cmpHi _ _ | .movHi .. => movHi _ _ | .bx .. => bx _ _ | .blxReg .. => blxReg _ _
  | .ldrLit .. => ldrLit _ _ | .strReg .. => strReg _ _ _ | .strhReg .. => strhReg _ _ _
  | .strbReg .. => strbReg _ _ _ | .ldrsbReg .. => ldrsbReg _ _ _ | .ldrReg .. => ldrReg _ _ _
  | .ldrhReg .. => ldrhReg _ _ _ | .ldrbReg .. => ldrbReg _ _ _ | .ldrshReg .. => ldrshReg _ _ _
  | .strImm .. => strImm _ _ _ | .ldrImm .. => ldrImm _ _ _ | .strbImm .. => strbImm _ _ _
  | .ldrbImm .. => ldrbImm _ _ _ | .strhImm .. => strhImm _ _ _ | .ldrhImm .. => ldrhImm _ _ _
  | .strSp .. => strSp _ _ | .ldrSp .. => ldrSp _ _ | .adr .. => adr _ _ | .addSpImm8 .. => addSpImm8 _ _
  | .addSpImm7 .. => addSpImm7 _ | .subSpImm7 .. => subSpImm7 _ | .cbz .. => cbz _ _ _ | .cbnz .. => cbnz _ _ _
  | .sxth .. => sxth _ _ | .sxtb .. => sxtb _ _ | .uxth .. => uxth _ _ | .uxtb .. => uxtb _ _ | .push .. => push _ _
  | .pop .. => pop _ _ | .rev .. => rev _ _ | .rev16 .. => rev16 _ _ | .revsh .. => revsh _ _
  | .cps .. => cps _ _ _ _ | .bkpt .. => bkpt _ | .it .. => it _ _ | .nop => nop | .yield => yield | .wfe => wfe
  | .wfi => wfi | .sev => sev | .hintUnallocated .. => hintUnallocated _ | .stm .. => stm _ _ | .ldm .. => ldm _ _
  | .bCond .. => bCond _ _ | .unpredUdf .. => unpredUdf _ | .svc .. => svc _ | .b .. => b _
  | .stmW .. => stmW _ _ _ _ _ _ | .ldmW .. => ldmW _ _ _ _ _ _ | .popW .. => popW _ _ _ _
  | .stmdb .. => stmdb _ _ _ _ _ _ | .pushW .. => pushW _ _ _ _ | .ldmdb .. => ldmdb _ _ _ _ _ _
  | .strex .. => strex _ _ _ _ | .ldrex .. => ldrex _ _ _ _ | .strdImm .. => strdImm _ _ _ _ _ _ _
  | .ldrdImm .. => ldrdImm _ _ _ _ _ _ _ | .ldrdLit .. => ldrdLit _ _ _ _ _ _ | .strexb .. => strexb _ _ _ _
  | .strexh .. => strexh _ _ _ _ | .ldrexb .. => ldrexb _ _ _ _ | .ldrexh .. => ldrexh _ _ _ _ | .tbb .. => tbb _ _ _
  | .tbh .. => tbh _ _ _ | .unpredNop16 .. => unpredNop16 _ | .unpredNop32 .. => unpredNop32 _ _

/-! ### The unmapped opcodes -/

/-- R274: the 16-bit tables have no row for an unmapped opcode. -/
theorem decode16_of_unmapped {hw : Half} (h : unmapped16 hw = true) : decode16 hw = .unpredNop16 hw := by
  obtain ⟨hgroup, hslot⟩ := Bool.and_eq_true_iff.mp h
  have hmisc : decode16 hw = decodeMisc hw := by simp only [decode16, bits, eq_of_beq hgroup]
  rw [hmisc]
  simp only [decodeMisc, decodeReverse, bits]
  revert hslot
  split
  case h_1 | h_4 => intro; split <;> simp_all
  all_goals simp_all

/-- R110, R311: the 32-bit table has no row for an unmapped opcode. -/
theorem decode32_of_unmapped {hw1 hw2 : Half} (h : unmapped32 hw1 hw2 = true) :
    decode32 hw1 hw2 = .unpredNop32 hw1 hw2 := by
  obtain ⟨_, hslot⟩ := Bool.and_eq_true_iff.mp h
  simp only [decode32, decodeSlot08C, decodeSlot08D, bits]
  revert hslot
  split
  case h_23 h | h_24 h =>
    intro hslot
    simp_all
  all_goals simp

/-! ### The mapped rows -/

/-- R104 to R109: a 16-bit opcode decodes to the well-formed instruction it encodes. -/
theorem decode16_encode {i : Instr} {hw : Half} (hwf : i.wellFormed = true) (h : encode i = [hw]) :
    decode16 hw = i := by
  cases i with
  | lslImm imm5 rm rd =>
    cases h
    have hne : imm5 ≠ 0#5 := bne_iff_ne.mp hwf
    simp [decode16, decodeShiftLow, bits, extractLsb'_append 3, extractLsb'_append 5]
  | movsReg | lsrImm | asrImm =>
    cases h
    simp [decode16, decodeShiftLow, decodeAddSub, bits, extractLsb'_append 3, extractLsb'_append 5]
  | addReg | subReg | addImm3 | subImm3 =>
    cases h
    simp [decode16, decodeAddSub, bits, extractLsb'_append 3]
  | movImm | cmpImm | addImm8 | subImm8 | strSp | ldrSp | adr | addSpImm8 | stm | ldm =>
    cases h
    simp [decode16, bits, extractLsb'_append 8, extractLsb'_append 3]
  | andReg | eorReg | lslReg | lsrReg | asrReg | adcReg | sbcReg | rorReg | tstReg | rsbImm0 | cmpReg | cmnReg | orrReg
  | mulReg | bicReg | mvnReg =>
    cases h
    simp [decode16, decodeGroup4, decodeDataProc, bits, extractLsb'_append 3]
  | addHi | movHi =>
    cases h
    simp [decode16, decodeGroup4, decodeSpecial, splitReg, bits, extractLsb'_append 3, extractLsb'_append 4,
      extractLsb'_append 1, splitReg_append]
  | cmpHi rm rn =>
    cases h
    have hhigh : (69#8 ++ rn.extractLsb' 3 1 ++ rm).extractLsb' 3 2 ≠ 0#2 := by revert rm rn; decide
    simp [decode16, decodeGroup4, decodeSpecial, splitReg, bits, extractLsb'_append 3, extractLsb'_append 4,
      extractLsb'_append 1, splitReg_append]
  | unpredCmpLowLow =>
    cases h
    simp [decode16, decodeGroup4, decodeSpecial, bits, extractLsb'_append 6]
  | bx | blxReg =>
    cases h
    simp [decode16, decodeGroup4, decodeSpecial, bits, extractLsb'_append 3, extractLsb'_append 4]
  | ldrLit rt imm8 =>
    cases h
    have hslot : ∀ rt : LowReg, (9#5 ++ rt).extractLsb' 2 2 ≠ 0#2 ∧ (9#5 ++ rt).extractLsb' 2 2 ≠ 1#2 := by decide
    obtain ⟨hdata, hspecial⟩ := hslot rt
    simp [decode16, decodeGroup4, bits, extractLsb'_append 8, extractLsb'_append 3]
  | strReg | strhReg | strbReg | ldrsbReg | ldrReg | ldrhReg | ldrbReg | ldrshReg =>
    cases h
    simp [decode16, decodeLoadStoreReg, bits, extractLsb'_append 3]
  | strImm | ldrImm | strbImm | ldrbImm | strhImm | ldrhImm =>
    cases h
    simp [decode16, bits, extractLsb'_append 3, extractLsb'_append 5]
  | addSpImm7 | subSpImm7 =>
    cases h
    simp [decode16, decodeMisc, bits, extractLsb'_append 7]
  | cbz ib | cbnz ib =>
    cases h
    cases ib <;>
      simp [decode16, decodeMisc, bits, bitAt_eq_bits, bit_true, bit_false, extractLsb'_append 3, extractLsb'_append 5]
  | push m | pop m =>
    cases h
    cases m <;> simp [decode16, decodeMisc, bits, bitAt_eq_bits, bit_true, bit_false, extractLsb'_append 8]
  | sxth | sxtb | uxth | uxtb | rev | rev16 | revsh =>
    cases h
    simp [decode16, decodeMisc, decodeExtend, decodeReverse, bits, extractLsb'_append 3]
  | cps =>
    cases h
    simp [decode16, decodeMisc, bits, bitAt_eq_bits, bit_beq_one, extractLsb'_append 1, extractLsb'_append 2]
  | bkpt =>
    cases h
    simp [decode16, decodeMisc, bits, extractLsb'_append 8]
  | it firstcond mask =>
    cases h
    have hmask : mask ≠ 0#4 := bne_iff_ne.mp hwf
    simp [decode16, decodeMisc, decodeHint, bits, extractLsb'_append 4]
  | nop | yield | wfe | wfi | sev =>
    cases h
    rfl
  | hintUnallocated opA =>
    cases h
    simp only [Instr.wellFormed, Bool.and_eq_true, bne_iff_ne] at hwf
    obtain ⟨⟨⟨⟨hnop, hyield⟩, hwfe⟩, hwfi⟩, hsev⟩ := hwf
    simp [decode16, decodeMisc, decodeHint, bits, extractLsb'_append 4]
  | bCond cond imm8 =>
    cases h
    simp only [Instr.wellFormed, Bool.and_eq_true, bne_iff_ne] at hwf
    obtain ⟨hudf, hsvc⟩ := hwf
    simp [decode16, decodeCondBranch, bits, extractLsb'_append 8, extractLsb'_append 4]
  | svc | unpredUdf =>
    cases h
    simp [decode16, decodeCondBranch, bits, extractLsb'_append 8]
  | b =>
    cases h
    simp [decode16, bits, extractLsb'_append 11]
  | unpredNop16 =>
    cases h
    exact decode16_of_unmapped hwf
  | _ => cases h

/-- R110, R111: a 32-bit opcode decodes to the well-formed instruction it encodes. The slot numbers hold the flags P, U
and W, so those rows are read once for each value of the flags. -/
theorem decode32_encode {i : Instr} {hw1 hw2 : Half} (hwf : i.wellFormed = true) (h : encode i = [hw1, hw2]) :
    decode32 hw1 hw2 = i := by
  cases i with
  | stmW w | ldmdb w =>
    cases h
    cases w <;> simp [decode32, bits, bitAt_eq_bits, bit_true, bit_false, bit_beq_one, extractLsb'_append 4,
      extractLsb'_append 13, extractLsb'_append 1]
  | ldmW w rn | stmdb w rn =>
    cases h
    have hrn : w = true → rn ≠ 13#4 := by
      rintro rfl
      simpa [Instr.wellFormed] using hwf
    cases w <;> simp [decode32, decodeLdmW, decodeStmdb, bits, bitAt_eq_bits, bit_true, bit_false, bit_beq_one,
      extractLsb'_append 4, extractLsb'_append 13, extractLsb'_append 1, hrn]
  | popW | pushW =>
    cases h
    simp [decode32, decodeLdmW, decodeStmdb, bits, bitAt_eq_bits, bit_beq_one, extractLsb'_append 13,
      extractLsb'_append 1]
  | strex | ldrex =>
    cases h
    simp [decode32, bits, extractLsb'_append 4, extractLsb'_append 8]
  | strdImm p u w =>
    cases h
    have hpw : p = true ∨ w = true := by simpa [Instr.wellFormed] using hwf
    cases p <;> cases u <;> cases w <;> simp [decode32, decodeStrd, bits, bitAt_eq_bits, bit_true, bit_false,
      extractLsb'_append 4, extractLsb'_append 8] at hpw ⊢
  | ldrdImm p u w rn =>
    cases h
    have hwf' : (p = true ∨ w = true) ∧ rn ≠ 15#4 := by simpa [Instr.wellFormed] using hwf
    obtain ⟨hpw, hrn⟩ := hwf'
    cases p <;> cases u <;> cases w <;> simp [decode32, decodeLdrd, bits, bitAt_eq_bits, bit_true, bit_false,
      extractLsb'_append 4, extractLsb'_append 8] at hpw ⊢
  | ldrdLit p u w =>
    cases h
    have hpw : p = true ∨ w = true := by simpa [Instr.wellFormed] using hwf
    cases p <;> cases u <;> cases w <;> simp [decode32, decodeLdrd, bits, bitAt_eq_bits, bit_true, bit_false,
      extractLsb'_append 4, extractLsb'_append 8] at hpw ⊢
  | strexb | strexh | ldrexb | ldrexh =>
    cases h
    simp [decode32, decodeSlot08C, decodeSlot08D, bits, extractLsb'_append 4]
  | tbb | tbh =>
    cases h
    simp [decode32, decodeSlot08D, bits, extractLsb'_append 4]
  | unpredNop32 =>
    cases h
    exact decode32_of_unmapped hwf
  | _ => cases h

/-! ### The bytes -/

/-- R90, R91: an opcode of one halfword is the first two bytes. -/
theorem decode_bytesOfHalf {hw : Half} (h : is32BitPrefix hw = false) (rest : List Byte) :
    decode (bytesOfHalf hw ++ rest) = .ok (decode16 hw, rest) := by
  simp [bytesOfHalf, decode, halfOfBytes_bytesOfHalf, h]

/-- R90, R91: an opcode of two halfwords is the first four bytes. -/
theorem decode_bytesOfHalves {hw1 : Half} (h : is32BitPrefix hw1 = true) (hw2 : Half) (rest : List Byte) :
    decode (bytesOfHalf hw1 ++ bytesOfHalf hw2 ++ rest) = .ok (decode32 hw1 hw2, rest) := by
  simp [bytesOfHalf, decode, halfOfBytes_bytesOfHalf, h]

/-- Settles O1: the length rule finds the encoding's halfwords, and the table of that length its instruction. -/
theorem decodeOfEncodeIsIdentity : Obligations.DecodeOfEncodeIsIdentity := by
  intro i rest hwf
  obtain ⟨hw1, hencode, hprefix⟩ | ⟨hw1, hw2, hencode, hprefix⟩ := encodedLength i hwf
  · have hbytes : encodeBytes i = bytesOfHalf hw1 := by simp [encodeBytes, hencode]
    rw [hbytes, decode_bytesOfHalf hprefix, decode16_encode hwf hencode]
  · have hbytes : encodeBytes i = bytesOfHalf hw1 ++ bytesOfHalf hw2 := by simp [encodeBytes, hencode]
    rw [hbytes, decode_bytesOfHalves hprefix, decode32_encode hwf hencode]

end Sys2Proof
end

section
/-! Encoding undoes decoding (30_encoding.md R90, R92, R117): every branch of the decoder answers a well-formed
instruction, and the parts that the encoder puts together are fields of the opcode: the operands by how they were read,
the constant bits because the decoder came to that branch. -/

namespace Sys2Proof

variable {hw hw1 hw2 : Half} {lo m n : Nat}

/-! ### Halfwords put together from their fields -/

theorem bits_eq_iff {v : BitVec n} : bits hw lo n = v ↔ hw.toNat / 2 ^ lo % 2 ^ n = v.toNat := by
  rw [← BitVec.toNat_inj, bits, BitVec.extractLsb'_toNat, Nat.shiftRight_eq_div_pow]

/-- The halfword has `x` at bit `lo`. -/
def FieldAt (hw : Half) (lo : Nat) (x : BitVec n) : Prop := bits hw lo n = x

theorem FieldAt.append {x : BitVec m} {y : BitVec n} (hx : FieldAt hw (lo + n) x) (hy : FieldAt hw lo y) :
    FieldAt hw lo (x ++ y) := by
  rw [FieldAt, ← hx, ← hy]
  exact (BitVec.extractLsb'_append_extractLsb'_eq_extractLsb' rfl).symm

theorem FieldAt.eq {x : Half} (h : FieldAt hw 0 x) : x = hw := by
  rw [← h, bits, BitVec.extractLsb'_eq_self]

theorem fieldAt_bit (hw : Half) (k : Nat) : FieldAt hw k (bit (bitAt hw k)) := by
  rw [FieldAt, bitAt_eq_bits]
  generalize bits hw k 1 = v
  revert v
  decide

/-- A field of a field. -/
theorem extractLsb'_bits (hw : Half) {k : Nat} (h : k + n ≤ m) :
    (bits hw lo m).extractLsb' k n = bits hw (lo + k) n := by
  ext j hj
  simp [bits, Nat.add_assoc, show k + j < m by omega]

/-- R103: the high part of a split register number. -/
theorem fieldAt_splitReg_high (hw : Half) : FieldAt hw 7 ((splitReg hw).extractLsb' 3 1) := by
  simp [FieldAt, splitReg, extractLsb'_append 3]

/-- R103: the low part of a split register number. -/
theorem fieldAt_splitReg_low (hw : Half) : FieldAt hw 0 ((splitReg hw).extractLsb' 0 3) := by
  simp [FieldAt, splitReg, extractLsb'_append 3]

/-- The instruction is well formed and its halfwords are `hws`. -/
def Encodes (i : Instr) (hws : List Half) : Prop := i.wellFormed = true ∧ encode i = hws

theorem encodes_half {i : Instr} {x : Half} (hwf : i.wellFormed = true) (he : encode i = [x]) (h : FieldAt hw 0 x) :
    Encodes i [hw] :=
  ⟨hwf, by rw [he, h.eq]⟩

theorem encodes_halves {i : Instr} {x y : Half} (hwf : i.wellFormed = true) (he : encode i = [x, y])
    (h1 : FieldAt hw1 0 x) (h2 : FieldAt hw2 0 y) : Encodes i [hw1, hw2] :=
  ⟨hwf, by rw [he, h1.eq, h2.eq]⟩

/-! ### The 16-bit tables -/

theorem decodeShiftLow_encodes (h : bits hw 12 4 = 0#4) : Encodes (decodeShiftLow hw) [hw] := by
  unfold decodeShiftLow
  split
  · split
    · refine encodes_half rfl rfl (.append (.append ?_ rfl) rfl)
      simp only [FieldAt, bits_eq_iff, BitVec.toNat_ofNat] at *
      omega
    case h_2 hne =>
      refine encodes_half (bne_iff_ne.mpr hne) rfl (.append (.append (.append ?_ rfl) rfl) rfl)
      simp only [FieldAt, bits_eq_iff, BitVec.toNat_ofNat] at *
      omega
  · refine encodes_half rfl rfl (.append (.append (.append ?_ rfl) rfl) rfl)
    simp only [FieldAt, bits_eq_iff, BitVec.toNat_ofNat, imp_false] at *
    omega

theorem decodeAddSub_encodes (h : bits hw 12 4 = 1#4) : Encodes (decodeAddSub hw) [hw] := by
  unfold decodeAddSub
  split
  · refine encodes_half rfl rfl (.append (.append (.append ?_ rfl) rfl) rfl)
    simp only [FieldAt, bits_eq_iff, BitVec.toNat_ofNat] at *
    omega
  · split
    all_goals
      refine encodes_half rfl rfl (.append (.append (.append ?_ rfl) rfl) rfl)
      simp only [FieldAt, bits_eq_iff, BitVec.toNat_ofNat, imp_false] at *
      omega

theorem decodeDataProc_encodes (h : bits hw 12 4 = 4#4) (h' : bits hw 10 2 = 0#2) :
    Encodes (decodeDataProc hw) [hw] := by
  unfold decodeDataProc
  split
  all_goals
    refine encodes_half rfl rfl (.append (.append ?_ rfl) rfl)
    simp only [FieldAt, bits_eq_iff, BitVec.toNat_ofNat, imp_false] at *
    omega

theorem decodeSpecial_encodes (h : bits hw 12 4 = 4#4) (h' : bits hw 10 2 = 1#2) :
    Encodes (decodeSpecial hw) [hw] := by
  have hhigh := fieldAt_splitReg_high hw
  have hlow := fieldAt_splitReg_low hw
  unfold decodeSpecial
  split
  case h_1 | h_3 =>
    refine encodes_half rfl rfl (.append (.append (.append ?_ hhigh) rfl) hlow)
    simp only [FieldAt, bits_eq_iff, BitVec.toNat_ofNat] at *
    omega
  case h_2 =>
    split
    · refine encodes_half rfl rfl (.append ?_ rfl)
      simp only [FieldAt, bits_eq_iff, BitVec.toNat_ofNat] at *
      omega
    · have hrm : (bits hw 3 4).extractLsb' 3 1 = bits hw 6 1 := extractLsb'_bits hw (by decide)
      have hrn : (splitReg hw).extractLsb' 3 1 = bits hw 7 1 := hhigh.symm
      refine encodes_half ?_ rfl (.append (.append (.append ?_ hhigh) rfl) hlow)
      · simp only [Instr.wellFormed, hrn, hrm, Bool.or_eq_true, beq_iff_eq, bits_eq_iff, BitVec.toNat_ofNat,
          imp_false] at *
        omega
      · simp only [FieldAt, bits_eq_iff, BitVec.toNat_ofNat] at *
        omega
  case h_4 =>
    split
    all_goals
      refine encodes_half rfl rfl (.append (.append ?_ rfl) rfl)
      simp only [FieldAt, bits_eq_iff, BitVec.toNat_ofNat, imp_false] at *
      omega

theorem decodeGroup4_encodes (h : bits hw 12 4 = 4#4) : Encodes (decodeGroup4 hw) [hw] := by
  unfold decodeGroup4
  split
  case h_1 hslot => exact decodeDataProc_encodes h hslot
  case h_2 hslot => exact decodeSpecial_encodes h hslot
  case h_3 =>
    refine encodes_half rfl rfl (.append (.append ?_ rfl) rfl)
    simp only [FieldAt, bits_eq_iff, BitVec.toNat_ofNat, imp_false] at *
    omega

theorem decodeLoadStoreReg_encodes (h : bits hw 12 4 = 5#4) : Encodes (decodeLoadStoreReg hw) [hw] := by
  unfold decodeLoadStoreReg
  split
  all_goals
    refine encodes_half rfl rfl (.append (.append (.append ?_ rfl) rfl) rfl)
    simp only [FieldAt, bits_eq_iff, BitVec.toNat_ofNat, imp_false] at *
    omega

theorem decodeExtend_encodes (h : bits hw 12 4 = 11#4) (h' : bits hw 8 4 = 2#4) : Encodes (decodeExtend hw) [hw] := by
  unfold decodeExtend
  split
  all_goals
    refine encodes_half rfl rfl (.append (.append ?_ rfl) rfl)
    simp only [FieldAt, bits_eq_iff, BitVec.toNat_ofNat, imp_false] at *
    omega

theorem decodeReverse_encodes (h : bits hw 12 4 = 11#4) (h' : bits hw 8 4 = 10#4) :
    Encodes (decodeReverse hw) [hw] := by
  unfold decodeReverse
  split
  case h_3 => exact ⟨by simp_all [Instr.wellFormed, unmapped16, bits], rfl⟩
  all_goals
    refine encodes_half rfl rfl (.append (.append ?_ rfl) rfl)
    simp only [FieldAt, bits_eq_iff, BitVec.toNat_ofNat, imp_false] at *
    omega

theorem decodeHint_encodes (h : bits hw 12 4 = 11#4) (h' : bits hw 8 4 = 15#4) : Encodes (decodeHint hw) [hw] := by
  unfold decodeHint
  split
  case h_1 hmask =>
    split
    case h_6 =>
      refine encodes_half (by simp_all [Instr.wellFormed]) rfl (.append (.append ?_ rfl) hmask)
      simp only [FieldAt, bits_eq_iff, BitVec.toNat_ofNat] at *
      omega
    all_goals
      refine encodes_half rfl rfl ?_
      simp only [FieldAt, bits_eq_iff, BitVec.toNat_ofNat] at *
      omega
  case h_2 hmask =>
    refine encodes_half (bne_iff_ne.mpr hmask) rfl (.append (.append ?_ rfl) rfl)
    simp only [FieldAt, bits_eq_iff, BitVec.toNat_ofNat] at *
    omega

theorem decodeMisc_encodes (h : bits hw 12 4 = 11#4) : Encodes (decodeMisc hw) [hw] := by
  unfold decodeMisc
  split
  case h_1 =>
    split
    all_goals
      refine encodes_half rfl rfl (.append ?_ rfl)
      simp only [FieldAt, bits_eq_iff, BitVec.toNat_ofNat, imp_false] at *
      omega
  case h_2 | h_3 | h_10 | h_11 =>
    refine encodes_half rfl rfl (.append (.append (.append (.append ?_ (fieldAt_bit hw 9)) ?_) rfl) rfl)
    all_goals
      simp only [FieldAt, bits_eq_iff, BitVec.toNat_ofNat] at *
      omega
  case h_4 hslot => exact decodeExtend_encodes h hslot
  case h_5 | h_6 | h_13 | h_14 =>
    refine encodes_half rfl rfl (.append (.append ?_ (fieldAt_bit hw 8)) rfl)
    simp only [FieldAt, bits_eq_iff, BitVec.toNat_ofNat] at *
    omega
  case h_7 =>
    split
    · refine encodes_half rfl rfl
        (.append (.append (.append (.append ?_ (fieldAt_bit hw 4)) rfl) (fieldAt_bit hw 1)) (fieldAt_bit hw 0))
      simp only [FieldAt, bits_eq_iff, BitVec.toNat_ofNat] at *
      omega
    · exact ⟨by simp_all [Instr.wellFormed, unmapped16, bits], rfl⟩
  case h_8 | h_9 => exact ⟨by simp_all [Instr.wellFormed, unmapped16, bits], rfl⟩
  case h_12 hslot => exact decodeReverse_encodes h hslot
  case h_15 =>
    refine encodes_half rfl rfl (.append ?_ rfl)
    simp only [FieldAt, bits_eq_iff, BitVec.toNat_ofNat] at *
    omega
  case h_16 =>
    refine decodeHint_encodes h ?_
    simp only [bits_eq_iff, BitVec.toNat_ofNat, imp_false] at *
    omega

theorem decodeCondBranch_encodes (h : bits hw 12 4 = 13#4) : Encodes (decodeCondBranch hw) [hw] := by
  unfold decodeCondBranch
  split
  case h_3 => exact encodes_half (by simp_all [Instr.wellFormed]) rfl (.append (.append h rfl) rfl)
  all_goals
    refine encodes_half rfl rfl (.append ?_ rfl)
    simp only [FieldAt, bits_eq_iff, BitVec.toNat_ofNat] at *
    omega

/-- R90: what the length rule leaves for the last row of the base table. -/
theorem bits_of_not_prefix (h : is32BitPrefix hw = false) :
    bits hw 11 5 ≠ 29#5 ∧ bits hw 11 5 ≠ 30#5 ∧ bits hw 11 5 ≠ 31#5 := by
  unfold is32BitPrefix at h
  split at h
  case h_4 h29 h30 h31 => exact ⟨h29, h30, h31⟩
  all_goals cases h

/-- R95, R117: every 16-bit opcode is the encoding of the instruction it decodes to. -/
theorem decode16_encodes (h : is32BitPrefix hw = false) : Encodes (decode16 hw) [hw] := by
  unfold decode16
  split
  case h_1 hgroup => exact decodeShiftLow_encodes hgroup
  case h_2 hgroup => exact decodeAddSub_encodes hgroup
  case h_5 hgroup => exact decodeGroup4_encodes hgroup
  case h_6 hgroup => exact decodeLoadStoreReg_encodes hgroup
  case h_12 hgroup => exact decodeMisc_encodes hgroup
  case h_14 hgroup => exact decodeCondBranch_encodes hgroup
  case h_7 | h_8 | h_9 =>
    split
    all_goals
      refine encodes_half rfl rfl (.append (.append (.append ?_ rfl) rfl) rfl)
      simp only [FieldAt, bits_eq_iff, BitVec.toNat_ofNat, imp_false] at *
      omega
  case h_3 | h_4 | h_10 | h_11 | h_13 =>
    split
    all_goals
      refine encodes_half rfl rfl (.append (.append ?_ rfl) rfl)
      simp only [FieldAt, bits_eq_iff, BitVec.toNat_ofNat, imp_false] at *
      omega
  case h_15 =>
    obtain ⟨h29, h30, h31⟩ := bits_of_not_prefix h
    refine encodes_half rfl rfl (.append ?_ rfl)
    simp only [FieldAt, ne_eq, bits_eq_iff, BitVec.toNat_ofNat, imp_false] at *
    omega

/-! ### The 32-bit table -/

/-- R90: the constant bits that all 32-bit opcodes share. -/
theorem bits_of_prefix (h : is32BitPrefix hw = true) : bits hw 13 3 = 7#3 := by
  unfold is32BitPrefix at h
  split at h
  case h_4 => cases h
  case h_1 hfive | h_2 hfive | h_3 hfive =>
    have hfive : bits hw 11 5 = _ := hfive
    simp only [bits_eq_iff, BitVec.toNat_ofNat] at *
    omega

/-- R96: the slot number of a 32-bit opcode, after the constant bits. -/
theorem fieldAt_slot (h : is32BitPrefix hw = true) {v : BitVec 9} (hslot : bits hw 4 9 = v) :
    FieldAt hw 4 (7#3 ++ v) :=
  FieldAt.append (n := 9) (bits_of_prefix h) hslot

/-- R110: the parts of the second halfword of a transfer with two registers and an offset. -/
theorem fieldAt_dual (hw : Half) : FieldAt hw 0 (bits hw 12 4 ++ bits hw 8 4 ++ bits hw 0 8) :=
  .append (.append rfl rfl) rfl

/-- R111: the parts of the second halfword of a transfer with a register list. -/
theorem fieldAt_list (hw : Half) :
    FieldAt hw 0 (bit (bitAt hw 15) ++ bit (bitAt hw 14) ++ bit (bitAt hw 13) ++ bits hw 0 13) :=
  .append (.append (.append (fieldAt_bit hw 15) (fieldAt_bit hw 14)) (fieldAt_bit hw 13)) rfl

/-- R302: the slots of STRD are those with the constant bits of its format and (P, W) not (0, 0). -/
theorem decodeStrd_encodes (hop : bits hw1 9 7 = 0b1110100#7) (hsix : bits hw1 6 1 = 1#1) (hfour : bits hw1 4 1 = 0#1)
    (hpw : bits hw1 8 1 = 1#1 ∨ bits hw1 5 1 = 1#1) : Encodes (decodeStrd hw1 hw2) [hw1, hw2] :=
  encodes_halves (by simpa [decodeStrd, Instr.wellFormed, bitAt_eq_bits] using hpw) rfl
    (.append (.append (.append (.append (.append (.append hop (fieldAt_bit hw1 8)) (fieldAt_bit hw1 7)) hsix)
      (fieldAt_bit hw1 5)) hfour) rfl)
    (fieldAt_dual hw2)

/-- R303, R304: the slots of LDRD, shared by its two rows. -/
theorem decodeLdrd_encodes (hop : bits hw1 9 7 = 0b1110100#7) (hsix : bits hw1 6 1 = 1#1) (hfour : bits hw1 4 1 = 1#1)
    (hpw : bits hw1 8 1 = 1#1 ∨ bits hw1 5 1 = 1#1) : Encodes (decodeLdrd hw1 hw2) [hw1, hw2] := by
  unfold decodeLdrd
  split
  case h_1 hrn =>
    exact encodes_halves (by simpa [Instr.wellFormed, bitAt_eq_bits] using hpw) rfl
      (.append (.append (.append (.append (.append hop (fieldAt_bit hw1 8)) (fieldAt_bit hw1 7)) hsix)
        (fieldAt_bit hw1 5)) (FieldAt.append (x := 1#1) (y := 15#4) hfour hrn))
      (fieldAt_dual hw2)
  case h_2 hrn =>
    exact encodes_halves (by simpa [Instr.wellFormed, bitAt_eq_bits] using ⟨hpw, hrn⟩) rfl
      (.append (.append (.append (.append (.append (.append hop (fieldAt_bit hw1 8)) (fieldAt_bit hw1 7)) hsix)
        (fieldAt_bit hw1 5)) hfour) rfl)
      (fieldAt_dual hw2)

theorem decodeLdmW_encodes (hop : bits hw1 6 10 = 0b1110100010#10) (hfour : bits hw1 4 1 = 1#1) :
    Encodes (decodeLdmW hw1 hw2) [hw1, hw2] := by
  unfold decodeLdmW
  split
  case isTrue hpop =>
    refine encodes_halves rfl rfl ?_ (fieldAt_list hw2)
    simp only [Bool.and_eq_true, bitAt_eq_bits hw1 5, beq_iff_eq, FieldAt, bits_eq_iff, BitVec.toNat_ofNat] at *
    omega
  case isFalse hrow =>
    exact encodes_halves (congrArg not (Bool.eq_false_of_not_eq_true hrow)) rfl
      (.append (.append (.append hop (fieldAt_bit hw1 5)) hfour) rfl) (fieldAt_list hw2)

theorem decodeStmdb_encodes (hop : bits hw1 6 10 = 0b1110100100#10) (hfour : bits hw1 4 1 = 0#1) :
    Encodes (decodeStmdb hw1 hw2) [hw1, hw2] := by
  unfold decodeStmdb
  split
  case isTrue hpush =>
    refine encodes_halves rfl rfl ?_ (fieldAt_list hw2)
    simp only [Bool.and_eq_true, bitAt_eq_bits hw1 5, beq_iff_eq, FieldAt, bits_eq_iff, BitVec.toNat_ofNat] at *
    omega
  case isFalse hrow =>
    exact encodes_halves (congrArg not (Bool.eq_false_of_not_eq_true hrow)) rfl
      (.append (.append (.append hop (fieldAt_bit hw1 5)) hfour) rfl) (fieldAt_list hw2)

theorem decodeSlot08C_encodes (h : is32BitPrefix hw1 = true) (hslot : bits hw1 4 9 = 0x08C#9) :
    Encodes (decodeSlot08C hw1 hw2) [hw1, hw2] := by
  have hop : FieldAt hw1 4 0xE8C#12 := fieldAt_slot h hslot
  unfold decodeSlot08C
  split
  case h_3 => exact ⟨by simp_all [Instr.wellFormed, unmapped32, bits], rfl⟩
  case h_1 hop3 | h_2 hop3 =>
    exact encodes_halves rfl rfl (.append hop rfl) (.append (.append (.append rfl rfl) hop3) rfl)

theorem decodeSlot08D_encodes (h : is32BitPrefix hw1 = true) (hslot : bits hw1 4 9 = 0x08D#9) :
    Encodes (decodeSlot08D hw1 hw2) [hw1, hw2] := by
  have hop : FieldAt hw1 4 0xE8D#12 := fieldAt_slot h hslot
  unfold decodeSlot08D
  split
  case h_1 hop3 | h_2 hop3 => exact encodes_halves rfl rfl (.append hop rfl) (.append (.append rfl hop3) rfl)
  case h_3 hop3 | h_4 hop3 =>
    exact encodes_halves rfl rfl (.append hop rfl) (.append (.append (.append rfl rfl) hop3) rfl)
  case h_5 => exact ⟨by simp_all [Instr.wellFormed, unmapped32, bits], rfl⟩

/-- R96, R110, R117: every 32-bit opcode is the encoding of the instruction it decodes to. -/
theorem decode32_encodes (h : is32BitPrefix hw1 = true) : Encodes (decode32 hw1 hw2) [hw1, hw2] := by
  have htop := bits_of_prefix h
  unfold decode32
  split
  case h_1 hslot | h_2 hslot =>
    exact encodes_halves rfl rfl (.append (fieldAt_slot h hslot) rfl) (fieldAt_dual hw2)
  case h_3 | h_4 | h_5 | h_6 | h_7 | h_8 =>
    apply decodeStrd_encodes
    all_goals
      simp only [bits_eq_iff, BitVec.toNat_ofNat] at *
      omega
  case h_9 | h_10 | h_11 | h_12 | h_13 | h_14 =>
    apply decodeLdrd_encodes
    all_goals
      simp only [bits_eq_iff, BitVec.toNat_ofNat] at *
      omega
  case h_15 | h_16 | h_23 | h_24 =>
    refine encodes_halves rfl rfl (.append (.append (.append ?_ (fieldAt_bit hw1 5)) ?_) rfl) (fieldAt_list hw2)
    all_goals
      simp only [FieldAt, bits_eq_iff, BitVec.toNat_ofNat] at *
      omega
  case h_17 | h_18 =>
    apply decodeLdmW_encodes
    all_goals
      simp only [bits_eq_iff, BitVec.toNat_ofNat] at *
      omega
  case h_19 hslot => exact decodeSlot08C_encodes h hslot
  case h_20 hslot => exact decodeSlot08D_encodes h hslot
  case h_21 | h_22 =>
    apply decodeStmdb_encodes
    all_goals
      simp only [bits_eq_iff, BitVec.toNat_ofNat] at *
      omega
  case h_25 => exact ⟨by simp_all [Instr.wellFormed, unmapped32, bits], rfl⟩

/-- Settles O2: the length rule chooses the table, and every branch of that table gives the opcode back. -/
theorem encodeOfDecodeIsIdentity : Obligations.EncodeOfDecodeIsIdentity := by
  intro hw1 hw2
  cases hprefix : is32BitPrefix hw1 with
  | false =>
    obtain ⟨hwf, hencode⟩ := decode16_encodes hprefix
    simp [decodeOpcode, hprefix, hwf, hencode]
  | true =>
    obtain ⟨hwf, hencode⟩ := decode32_encodes (hw2 := hw2) hprefix
    simp [decodeOpcode, hprefix, hwf, hencode]

end Sys2Proof
end

section
/-! The cycle that runs the instruction at the PC (30_encoding.md R91, R94): from the bytes that are fetched to the
instruction that is executed. -/

namespace Sys2Proof.Machine

variable {i : Instr} {s t : State}

/-- R62: the byte at the lower address has the lower weight. -/
theorem toNat_halfOfBytes (b0 b1 : Byte) : (halfOfBytes b0 b1).toNat = b0.toNat + 256 * b1.toNat := by
  rw [halfOfBytes, BitVec.toNat_append, ← Nat.shiftLeft_add_eq_or_of_lt b0.isLt, Nat.shiftLeft_eq]
  omega

/-- R62: a halfword read from memory is its two bytes, the lower address first. -/
theorem readLE_two_setWidth (m : Memory) (a : Nat) :
    (m.readLE a 2).setWidth 16 = halfOfBytes (m.readByte a) (m.readByte (a + 1)) := by
  apply BitVec.eq_of_toNat_eq
  have hlow := (m.readByte a).isLt
  have hhigh := (m.readByte (a + 1)).isLt
  rw [BitVec.toNat_setWidth, m.toNat_readLE_succ a (n := 1) (by decide), m.toNat_readLE_one,
    toNat_halfOfBytes]
  omega

/-- R91: a read of plain memory that the region map admits. -/
theorem portRead_plain {a : Word} {sz : Size} (hr : s.readable a sz = true) (hp : s.isDevice a sz = false) :
    s.portRead a sz = some (s.mem.readLE a.toNat sz.bytes, s) := by
  simp [portRead_eq, hr, State.readValue, State.afterRead, hp]

/-- R91: the fetch of four bytes of plain readable memory. -/
theorem fetch_plain (hr : s.readable s.pc .half = true) (hp : s.isDevice s.pc .half = false)
    (hr' : s.readable (s.pc + 2) .half = true) (hp' : s.isDevice (s.pc + 2) .half = false) :
    s.fetch = .ok (halfOfBytes (s.mem.readByte s.pc.toNat) (s.mem.readByte (s.pc.toNat + 1)),
      halfOfBytes (s.mem.readByte (s.pc + 2).toNat) (s.mem.readByte ((s.pc + 2).toNat + 1))) s := by
  simp only [State.fetch, portRead_plain hr hp, portRead_plain hr' hp', Size.bytes, readLE_two_setWidth]

/-- R90, R93: what the decoder reads from four bytes, and how many it leaves. -/
theorem decodeOpcode_of_decode {b0 b1 b2 b3 : Byte} {rest : List Byte}
    (h : decode [b0, b1, b2, b3] = .ok (i, rest)) :
    decodeOpcode (halfOfBytes b0 b1) (halfOfBytes b2 b3) = (i, 4 - rest.length) := by
  unfold decodeOpcode
  rw [decode] at h
  split at h
  all_goals
    cases h
    simp [*]

/-- R94: a cycle whose fetch succeeds runs the decoded instruction, then the IT advance and the exception check. -/
theorem step_run {hw1 hw2 : Half} (hidle : s.idle = false) (ht : s.psr.t = true) (hfetch : s.fetch = .ok (hw1, hw2) t) :
    step s = finishCycle id (exec (decodeOpcode hw1 hw2).1 (t.advance (decodeOpcode hw1 hw2).2)) := by
  simp [step, cycle, hidle, ht, hfetch]

/-- Settles O8: the fetch, the decoder and the rest of the cycle. -/
theorem stepRunsDecodedInstruction : Obligations.StepRunsDecodedInstruction := by
  intro s i rest hidle ht hr hp hr' hp' hdecode
  rw [step_run hidle ht (fetch_plain hr hp hr' hp'), decodeOpcode_of_decode hdecode]
  simp only [finishCycle, State.advance]
  cases exec i _ <;> rfl

/-- Settles O10: each word, run through the decoder. -/
theorem writtenWordsDecode : Obligations.WrittenWordsDecode := by
  exact ⟨rfl, rfl, rfl, rfl, rfl, rfl, rfl, rfl, rfl⟩

end Sys2Proof.Machine
end

section
/-! How an instruction ends (30_encoding.md R97, R98, R113): in Thread mode with a next state; where its condition fails
or an UNPREDICTABLE condition holds, with at most a LOG event. -/

namespace Sys2Proof.Machine

variable {i : Instr} {s t : State}

/-! ### Thread mode -/

/-- The outcome is a next state. -/
def Result.Ends (r : Result) : Prop := ∃ t, r = .next t

theorem next_ends (t : State) : Result.Ends (.next t) := ⟨t, rfl⟩

theorem prologue_ends {j : Instr} {b passed : Bool} {body : State → Result} (h : Result.Ends (body s)) :
    Result.Ends (prologue j b passed s body) := by
  unfold prologue
  split
  · exact next_ends _
  · split
    · exact h
    · exact next_ends s

theorem guarded_ends {j : Instr} {b : Bool} {body : State → Result} (h : Result.Ends (body s)) :
    Result.Ends (guarded j b s body) := prologue_ends h

theorem conditional_ends {body : State → Result} (h : Result.Ends (body s)) : Result.Ends (conditional s body) := by
  unfold conditional
  split
  · exact h
  · exact next_ends s

/-- R67: a refused access ends its instruction; after an admitted one it goes on from a state that satisfies `P`. -/
theorem Access.andThen_ends {α : Type} {P : State → Prop} {a : Access α} {k : α → State → Result} (ha : a.Ends P)
    (hk : ∀ v t, P t → Result.Ends (k v t)) : Result.Ends (a.andThen k) := by
  cases a with
  | ok v t => exact hk v t ha
  | failed t => exact next_ends t

/-- R67: an instruction that only updates the state after its access ends whatever the port answers. -/
theorem Access.andThen_next {α : Type} (a : Access α) (f : α → State → State) :
    Result.Ends (a.andThen fun v t => .next (f v t)) := by
  cases a <;> exact next_ends _

/-- R146: in Thread mode `BXWritePC` is a branch. -/
theorem bxWritePC_ends (hmode : s.mode = .thread) (a : Word) : Result.Ends (s.bxWritePC a) := by
  rw [bxWritePC_branch (isExceptionReturn_thread a hmode)]
  exact next_ends _

theorem Edits.mode_thread (h : Edits i s t) (hmode : s.mode = .thread) : t.mode = .thread :=
  h.keep (P := fun s => s.mode = .thread) (fun _ _ he hm => (he.staysInThread hm).mode) hmode

/-- R261, R291, R292, R295: the loads and the write-back leave the mode, so the PC write is not an exception return. -/
theorem loadMultiple_ends (hmode : s.mode = .thread) (mask : BitVec 16) (p : Bool) (start : Word)
    (wb : Option (RegNum × Word)) : Result.Ends (loadMultiple mask p start wb s) := by
  refine Access.andThen_ends (loadRegs_ends (i := .nop) _ .refl start) fun vs t ht => ?_
  split
  · refine Access.andThen_ends (loadA_ends ht _ .word) fun target u hu => bxWritePC_ends ?_ target
    exact Edits.mode_thread ((hu.trans (writeAll_edits vs u)).trans (writeBack_edits _ wb)) hmode
  · exact next_ends _

theorem storeExclusive_ends (rd : RegNum) (a : Word) (sz : Size) (v : Word) :
    Result.Ends (storeExclusive rd a sz v s) := by
  unfold storeExclusive
  split
  · exact next_ends _
  · split
    · exact Access.andThen_next _ _
    · exact next_ends _

/-- Settles O5, by the shapes the instructions share; only a PC write that may be an exception return looks at the
mode. -/
theorem everyThreadModeInstructionCompletes : Obligations.EveryThreadModeInstructionCompletes := by
  intro i s hmode
  change Result.Ends (exec i s)
  unfold exec
  cases i with
  | bx => exact guarded_ends (bxWritePC_ends hmode _)
  | blxReg =>
    have hlinked : ∀ v, (s.setLr v).mode = .thread := fun _ => hmode
    exact guarded_ends (bxWritePC_ends (hlinked _) _)
  | pop | ldm | ldmW | popW | ldmdb => exact guarded_ends (loadMultiple_ends hmode _ _ _ _)
  | lslImm | lsrImm | asrImm | lslReg | lsrReg | asrReg | rorReg | andReg | eorReg | orrReg | mulReg | bicReg | mvnReg
  | movImm | addReg | subReg | addImm3 | subImm3 | addImm8 | subImm8 | adcReg | sbcReg | rsbImm0 | cmpImm | cmpReg
  | cmnReg | tstReg | adr | addSpImm8 | addSpImm7 | subSpImm7 | sxth | sxtb | uxth | uxtb | rev | rev16 | revsh | nop
  | yield | wfe | wfi | sev | hintUnallocated | svc =>
    exact conditional_ends (next_ends _)
  | movsReg | cmpHi | addHi | movHi | cbz | cbnz | cps | it | b => exact guarded_ends (next_ends _)
  | bCond => exact prologue_ends (next_ends _)
  | ldrLit | ldrReg | ldrhReg | ldrbReg | ldrsbReg | ldrshReg | ldrImm | ldrbImm | ldrhImm | ldrSp | strReg | strhReg
  | strbReg | strImm | strbImm | strhImm | strSp =>
    exact conditional_ends (Access.andThen_next _ _)
  | push | stm | stmW | stmdb | pushW | ldrex | ldrexb | ldrexh | strdImm | ldrdImm | ldrdLit | tbb | tbh =>
    exact guarded_ends (Access.andThen_next _ _)
  | strex | strexb | strexh => exact guarded_ends (storeExclusive_ends _ _ _ _)
  | bkpt | unpredCmpLowLow | unpredUdf | unpredNop16 | unpredNop32 => exact next_ends _

/-! ### Conditions that fail -/

theorem conditional_failed {body : State → Result} (hc : s.psr.conditionPassed = false) :
    conditional s body = .next s := by
  simp [conditional, hc]

/-- R98: the UNPREDICTABLE operands come before the condition. -/
theorem guarded_failed {u : Bool} {body : State → Result} (hc : s.psr.conditionPassed = false) :
    guarded i u s body = .next s ∨ guarded i u s body = .next (s.emit (.unpredictable i.opcode)) := by
  cases u with
  | false => exact .inl (by simp [guarded, prologue, hc])
  | true => exact .inr (guarded_unpredictable rfl)

/-- Settles O41, by the three prologues: conditional, with UNPREDICTABLE operands, and none. -/
theorem failedConditionDoesNothing : Obligations.FailedConditionDoesNothing := by
  intro i s hc hcond
  unfold exec
  cases i with
  | bCond cond imm8 => exact absurd rfl (hcond cond imm8)
  | bkpt => exact .inl rfl
  | unpredCmpLowLow | unpredUdf | unpredNop16 | unpredNop32 => exact .inr rfl
  | movsReg | addHi | cmpHi | movHi | bx | blxReg | cbz | cbnz | push | pop | cps | it | stm | ldm | b | stmW | ldmW
  | popW | stmdb | pushW | ldmdb | strex | ldrex | strdImm | ldrdImm | ldrdLit | strexb | strexh | ldrexb | ldrexh | tbb
  | tbh =>
    exact guarded_failed hc
  | _ => exact .inl (conditional_failed hc)

/-! ### UNPREDICTABLE operands -/

/-- R97, R98: an UNPREDICTABLE condition is looked for before the instruction's own condition. -/
theorem prologue_unpredictable {u passed : Bool} {body : State → Result} (hu : u = true) :
    prologue i u passed s body = .next (s.emit (.unpredictable i.opcode)) := if_pos hu

/-- R113 (a): inside an IT block, but not its last instruction. -/
theorem inITNotLast_of_inITBlock (h : s.psr.inITBlock = true) (h' : s.psr.lastInITBlock = false) :
    s.psr.inITNotLast = true := by
  simp [Psr.inITNotLast, h, h']

/-- R291, R292, R295: a list that names the PC. -/
theorem pcListUnpredictable_of_inITNotLast (m : Bool) (h : s.psr.inITNotLast = true) :
    pcListUnpredictable true m s = true := by
  simp [pcListUnpredictable, h]

/-- Settles O40: in each row the condition is among the UNPREDICTABLE ones that its prologue looks for. -/
theorem itRestrictionsOnlyLog : Obligations.ItRestrictionsOnlyLog := by
  intro s hblock
  refine ⟨fun i hi => ?_, fun hlast i hi => ?_⟩
  · obtain ⟨c, m, rfl⟩ | ⟨a, b, c, rfl⟩ | ⟨a, b, c, rfl⟩ | ⟨a, b, rfl⟩ | ⟨a, b, c, d, rfl⟩ | ⟨a, b, rfl⟩ := hi
    all_goals
      simp only [OnlyLogs, exec, execBCond, execCbz, execCbnz, execIt, execCps, execMovsReg]
      exact prologue_unpredictable (by simp [hblock])
  · have hmid := inITNotLast_of_inITBlock hblock hlast
    have hlist := fun m => pcListUnpredictable_of_inITNotLast m hmid
    obtain ⟨a, b, rfl⟩ | ⟨a, b, rfl⟩ | ⟨a, rfl⟩ | ⟨a, rfl⟩ | ⟨a, rfl⟩ | ⟨a, rfl⟩ | ⟨a, b, c, rfl⟩ |
      ⟨a, b, c, d, e, rfl⟩ | ⟨a, b, c, d, e, rfl⟩ | ⟨a, b, c, rfl⟩ | ⟨a, b, c, rfl⟩ := hi
    all_goals
      simp only [OnlyLogs, exec, execBx, execBlxReg, execB, execAddHi, execMovHi, execPop, execPopW, execLdmW,
        execLdmdb, execTbb, execTbh]
      exact prologue_unpredictable (by simp [hmid, hlist, tableUnpredictable])

end Sys2Proof.Machine
end

section
/-! The multiple and dual transfers (45_misc16.md R260, R261; 46_multiple16_branch_svc.md R280, R281;
47_load_store_multiple32.md R290 to R295; 48_dual_exclusive_tablebranch32.md R302 to R304): the UNPREDICTABLE operands
of a row are those for which it has no form. -/

namespace Sys2Proof.Machine

variable {i : Instr} {s : State}

/-- R97, R98: an instruction is a logged no-op, or its operands are not UNPREDICTABLE, and it has its form. -/
theorem form_or_onlyLogs {u : Bool} {body : State → Result} {P Q : Prop} (hexec : exec i s = guarded i u s body)
    (hform : u = false → P ∨ Q) : P ∨ Q ∨ OnlyLogs i s (.unpredictable i.opcode) := by
  cases u with
  | false => exact (hform rfl).imp_right .inl
  | true => exact .inr (.inr (hexec.trans (guarded_unpredictable rfl)))

theorem le_of_decide_lt {k n : Nat} (h : decide (k < n) = false) : n ≤ k := Nat.not_lt.mp (of_decide_eq_false h)

theorem multipleUnpredictable_eq_false_iff {w : Bool} {n : RegNum} {mask : BitVec 16} {k : Nat} :
    multipleUnpredictable w n mask k = false ↔ 2 ≤ k ∧ n ≠ 15#4 ∧ ¬(w = true ∧ n ∈ regsOf mask) := by
  refine ⟨fun h => ?_, fun ⟨hk, hn, hw⟩ => multipleUnpredictable_eq_false hk hn hw⟩
  simp only [multipleUnpredictable, Bool.or_eq_false_iff] at h
  obtain ⟨⟨hn, hk⟩, hw⟩ := h
  exact ⟨le_of_decide_lt hk, beq_eq_false_iff_ne.mp hn, by simpa [mem_regsOf] using hw⟩

theorem pcInIT_eq_false_iff {p : Bool} : (p && s.psr.inITNotLast) = false ↔ ¬(p = true ∧ s.midIT) := by
  refine ⟨fun h hit => ?_, pcInIT_eq_false⟩
  rw [hit.1, inITNotLast_of_inITBlock hit.2.1 hit.2.2] at h
  cases h

theorem pcListUnpredictable_eq_false_iff {p m : Bool} :
    pcListUnpredictable p m s = false ↔ ¬(p = true ∧ m = true) ∧ ¬(p = true ∧ s.midIT) := by
  rw [pcListUnpredictable, Bool.or_eq_false_iff, pcInIT_eq_false_iff, ← Bool.not_eq_true, Bool.and_eq_true]

theorem spOrPc_eq_false_iff {r : RegNum} : spOrPc r = false ↔ r ∉ [13#4, 15#4] := by
  simp [spOrPc]

/-- Settles O32: row by row, the UNPREDICTABLE condition of the prologue is the negation of the form's premises. -/
theorem transferRestrictionsOnlyLog : Obligations.TransferRestrictionsOnlyLog := by
  intro s i hwf htransfer
  cases i with
  | stm n l => exact form_or_onlyLogs rfl fun hu => .inl ⟨_, _, _, .stm n l (le_of_decide_lt hu)⟩
  | push m l => exact form_or_onlyLogs rfl fun hu => .inl ⟨_, _, _, .push m l _ (le_of_decide_lt hu) rfl⟩
  | pushW sb15 m sb13 l =>
    exact form_or_onlyLogs rfl fun hu => .inl ⟨_, _, _, .pushW sb15 m sb13 l _ (le_of_decide_lt hu) rfl⟩
  | stmW w n sb15 m sb13 l =>
    refine form_or_onlyLogs rfl fun hu => ?_
    obtain ⟨hcount, hn, hw⟩ := multipleUnpredictable_eq_false_iff.mp hu
    exact .inl ⟨_, _, _, .stmW w n sb15 m sb13 l hcount hn hw⟩
  | stmdb w n sb15 m sb13 l =>
    refine form_or_onlyLogs rfl fun hu => ?_
    obtain ⟨hcount, hn, hw⟩ := multipleUnpredictable_eq_false_iff.mp hu
    exact .inl ⟨_, _, _, .stmdb w n sb15 m sb13 l _ hcount hn hw rfl⟩
  | strdImm p u w n t t2 imm =>
    refine form_or_onlyLogs rfl fun hu => ?_
    simp only [Bool.or_eq_false_iff, spOrPc_eq_false_iff, beq_eq_false_iff_ne] at hu
    obtain ⟨⟨⟨hw, hn⟩, ht⟩, ht2⟩ := hu
    exact .inl ⟨_, _, _, .strd p u w n t t2 imm _ (by simpa using hw) hn ht ht2 rfl⟩
  | ldm n l => exact form_or_onlyLogs rfl fun hu => .inr ⟨_, _, _, _, .ldm n l (le_of_decide_lt hu)⟩
  | pop p l =>
    refine form_or_onlyLogs rfl fun hu => ?_
    obtain ⟨hcount, hit⟩ := Bool.or_eq_false_iff.mp hu
    exact .inr ⟨_, _, _, _, .pop p l (le_of_decide_lt hcount) (pcInIT_eq_false_iff.mp hit)⟩
  | popW p m sb13 l =>
    refine form_or_onlyLogs rfl fun hu => ?_
    obtain ⟨hcount, hpc⟩ := Bool.or_eq_false_iff.mp hu
    obtain ⟨hpm, hit⟩ := pcListUnpredictable_eq_false_iff.mp hpc
    exact .inr ⟨_, _, _, _, .popW p m sb13 l (le_of_decide_lt hcount) hpm hit⟩
  | ldmW w n p m sb13 l =>
    refine form_or_onlyLogs rfl fun hu => ?_
    obtain ⟨hmultiple, hpc⟩ := Bool.or_eq_false_iff.mp hu
    obtain ⟨hcount, hn, hw⟩ := multipleUnpredictable_eq_false_iff.mp hmultiple
    obtain ⟨hpm, hit⟩ := pcListUnpredictable_eq_false_iff.mp hpc
    exact .inr ⟨_, _, _, _, .ldmW w n p m sb13 l hcount hn hw hpm hit⟩
  | ldmdb w n p m sb13 l =>
    refine form_or_onlyLogs rfl fun hu => ?_
    obtain ⟨hmultiple, hpc⟩ := Bool.or_eq_false_iff.mp hu
    obtain ⟨hcount, hn, hw⟩ := multipleUnpredictable_eq_false_iff.mp hmultiple
    obtain ⟨hpm, hit⟩ := pcListUnpredictable_eq_false_iff.mp hpc
    exact .inr ⟨_, _, _, _, .ldmdb w n p m sb13 l _ hcount hn hw hpm hit rfl⟩
  | ldrdImm p u w n t t2 imm =>
    have hn : n ≠ 15#4 := bne_iff_ne.mp (Bool.and_eq_true_iff.mp hwf).2
    refine form_or_onlyLogs rfl fun hu => ?_
    simp only [Bool.or_eq_false_iff, spOrPc_eq_false_iff, beq_eq_false_iff_ne] at hu
    obtain ⟨⟨⟨hw, ht⟩, ht2⟩, hne⟩ := hu
    exact .inr ⟨_, _, _, _, .ldrd p u w n t t2 imm _ (by simpa using hw) hn ht ht2 hne rfl⟩
  | ldrdLit p u w t t2 imm =>
    refine form_or_onlyLogs rfl fun hu => ?_
    simp only [Bool.or_eq_false_iff, spOrPc_eq_false_iff, beq_eq_false_iff_ne] at hu
    obtain ⟨⟨⟨ht, ht2⟩, hne⟩, rfl⟩ := hu
    exact .inr ⟨_, _, _, _, .ldrdLit p u t t2 imm ht ht2 hne⟩
  | _ => cases htransfer

end Sys2Proof.Machine
end

section
/-! What a register write leaves unchanged (10_state.md R12, R24): the frame of one write and of several, and of the PC
and status-word writes that follow them. -/

namespace Sys2Proof.Machine

variable {s t u : State} {rs rs' : List RegNum}

/-! ### Frames compose -/

theorem Frame.refl (s : State) : Frame s s [] where
  regs _ _ _ := rfl
  otherBank := by split <;> rfl
  primask := rfl
  faultmask := rfl
  basepri := rfl
  spsel := rfl
  mode := rfl
  itNew := rfl
  nvic := rfl
  regions := rfl
  params := rfl
  halting := rfl
  halted := rfl
  excl := rfl
  log := rfl

theorem Frame.liveProcess (h : Frame s t rs) : t.liveProcess = s.liveProcess := by
  simp only [State.liveProcess, h.mode, h.spsel]

theorem Frame.trans (h : Frame s t rs) (h' : Frame t u rs') : Frame s u (rs ++ rs') where
  regs r hr hmem := by
    rw [List.mem_append, not_or] at hmem
    exact (h'.regs r hr hmem.2).trans (h.regs r hr hmem.1)
  otherBank := by
    have hbank := h.otherBank
    have hbank' := h'.otherBank
    rw [h.liveProcess] at hbank'
    split at hbank
    case isTrue hlive =>
      rw [if_pos hlive] at hbank' ⊢
      exact hbank'.trans hbank
    case isFalse hlive =>
      rw [if_neg hlive] at hbank' ⊢
      exact hbank'.trans hbank
  primask := h'.primask.trans h.primask
  faultmask := h'.faultmask.trans h.faultmask
  basepri := h'.basepri.trans h.basepri
  spsel := h'.spsel.trans h.spsel
  mode := h'.mode.trans h.mode
  itNew := h'.itNew.trans h.itNew
  nvic := h'.nvic.trans h.nvic
  regions := h'.regions.trans h.regions
  params := h'.params.trans h.params
  halting := h'.halting.trans h.halting
  halted := h'.halted.trans h.halted
  excl := h'.excl.trans h.excl
  log := h'.log.trans h.log

theorem Frame.mono (h : Frame s t rs) (hsub : rs ⊆ rs') : Frame s t rs' :=
  { h with regs := fun r hr hmem => h.regs r hr (mt (@hsub r) hmem) }

theorem WritesNoFlags.refl (s : State) : WritesNoFlags s s [] := ⟨⟨Frame.refl s, fun _ => rfl, rfl⟩, rfl⟩

theorem WritesNoFlags.trans (h : WritesNoFlags s t rs) (h' : WritesNoFlags t u rs') :
    WritesNoFlags s u (rs ++ rs') := by
  obtain ⟨⟨hframe, hmem, hpc⟩, hpsr⟩ := h
  obtain ⟨⟨hframe', hmem', hpc'⟩, hpsr'⟩ := h'
  exact ⟨⟨hframe.trans hframe', fun a => (hmem' a).trans (hmem a), hpc'.trans hpc⟩, hpsr'.trans hpsr⟩

theorem WritesNoFlags.mono (h : WritesNoFlags s t rs) (hsub : rs ⊆ rs') : WritesNoFlags s t rs' := by
  obtain ⟨⟨hframe, hrest⟩, hpsr⟩ := h
  exact ⟨⟨hframe.mono hsub, hrest⟩, hpsr⟩

/-! ### The PC and the status word -/

/-- R21: a register that is not the PC is a general register, SP or LR. -/
theorem regNum_cases {r : RegNum} (h : r ≠ 15#4) : r.toNat < 13 ∨ r = 13#4 ∨ r = 14#4 := by
  revert r
  decide

/-- The numbered registers but the PC do not show a write to the PC (R12). -/
theorem x32_setPc (s : State) (a : Word) {r : RegNum} (hr : r ≠ 15#4) : (s.setPc a).x32 r = s.x32 r := by
  rcases regNum_cases hr with hlow | rfl | rfl
  · simp [State.x32, State.readX, hlow]
  · rfl
  · rfl

@[simp] theorem setPsr_x32 (s : State) (p : Psr) (r : RegNum) : (s.setPsr p).x32 r = s.x32 r := rfl

theorem Frame.setPsr (h : Frame s t rs) (p : Psr) : Frame s (t.setPsr p) rs := { h with }

theorem Frame.setPc (h : Frame s t rs) (a : Word) : Frame s (t.setPc a) rs :=
  { h with regs := fun r hr hmem => (x32_setPc t a hr).trans (h.regs r hr hmem) }

/-! ### Register writes -/

/-- R24: a write to the stack pointer reaches the live bank only. -/
theorem writeX_otherBank (s : State) (r : RegNum) (v : Word) :
    if s.liveProcess then (s.writeX r v).spMain = s.spMain else (s.writeX r v).spProcess = s.spProcess := by
  by_cases hlow : r.toNat < 13
  · simp [State.writeX, hlow]
  · by_cases h13 : r = 13#4
    · cases hlive : s.liveProcess <;> simp [State.writeX, h13, State.setSp, hlive]
    · by_cases h14 : r = 14#4 <;> simp [State.writeX, hlow, h13, h14]

theorem writeX_frame (s : State) (r : RegNum) (v : Word) : Frame s (s.writeX r v) [r] where
  regs _ _ hmem := x32_writeX_ne s v (List.ne_of_not_mem_cons hmem)
  otherBank := writeX_otherBank s r v
  primask := by simp
  faultmask := by simp
  basepri := by simp
  spsel := by simp
  mode := by simp
  itNew := by simp
  nvic := by simp
  regions := by simp
  params := by simp
  halting := by simp
  halted := by simp
  excl := by simp
  log := by simp

theorem writeX_writesNoFlags (s : State) (r : RegNum) (v : Word) : WritesNoFlags s (s.writeX r v) [r] :=
  ⟨⟨writeX_frame s r v, fun _ => by rw [State.writeX_mem], State.writeX_pc s v r⟩, State.writeX_psr s v r⟩

theorem writeAll_writesNoFlags (vs : List (RegNum × Word)) (s : State) :
    WritesNoFlags s (s.writeAll vs) (vs.map Prod.fst) := by
  induction vs generalizing s with
  | nil => exact .refl s
  | cons p rest ih => exact (writeX_writesNoFlags s p.1 p.2).trans (ih _)

theorem writeBack_writesNoFlags (s : State) (wb : Option (RegNum × Word)) :
    WritesNoFlags s (s.writeBack wb) (wb.map Prod.fst).toList := by
  cases wb with
  | none => exact .refl s
  | some p => exact writeX_writesNoFlags s p.1 p.2

/-- R24: the stack pointer reads back as the word-aligned part of what was written. -/
theorem x32_writeX_sp (s : State) (v : Word) : (s.writeX 13#4 v).x32 13#4 = spMask v := by
  simp [State.x32, State.readX_writeX]

/-- R24: a word-aligned value passes the mask of the stack pointers. -/
theorem spMask_of_aligned {v : Word} (h : aligned v .word = true) : spMask v = v := by
  have hmod : v.toNat % 4 = 0 := beq_iff_eq.mp h
  have hlow : v.getLsbD 0 = false ∧ v.getLsbD 1 = false := by
    simp only [BitVec.getLsbD, Nat.testBit, Nat.shiftRight_eq_div_pow, Nat.one_and_eq_mod_two, bne_eq_false_iff_eq]
    omega
  have hmask : ∀ k < 32, (0xFFFFFFFC#32).getLsbD k = decide (2 ≤ k) := by decide
  refine BitVec.eq_of_getLsbD_eq fun k hk => ?_
  rw [spMask, BitVec.getLsbD_and, hmask k hk]
  match k with
  | 0 => rw [hlow.1]; rfl
  | 1 => rw [hlow.2]; rfl
  | k + 2 => simp

/-- A write-back is read back, a stack pointer if it is word aligned (R24). -/
theorem x32_writeX_aligned (s : State) {r : RegNum} {v : Word} (hr : r ≠ 15#4)
    (h : r = 13#4 → aligned v .word = true) : (s.writeX r v).x32 r = v := by
  by_cases h13 : r = 13#4
  · rw [h13, x32_writeX_sp, spMask_of_aligned (h h13)]
  · exact x32_writeX_same s v h13 hr

/-- R15: of several writes to distinct registers each is read back. -/
theorem x32_writeAll {vs : List (RegNum × Word)} (s : State) (hnodup : (vs.map Prod.fst).Nodup)
    (h : ∀ p ∈ vs, p.1 ∉ [13#4, 15#4]) : ∀ p ∈ vs, (s.writeAll vs).x32 p.1 = p.2 := by
  induction vs generalizing s with
  | nil => simp
  | cons q rest ih =>
    obtain ⟨hq, hrest⟩ := List.nodup_cons.mp hnodup
    obtain ⟨hspPc, hspPc'⟩ := List.forall_mem_cons.mp h
    have hne : q.1 ≠ 13#4 ∧ q.1 ≠ 15#4 := by simpa using hspPc
    refine List.forall_mem_cons.mpr ⟨?_, ih _ hrest hspPc'⟩
    obtain ⟨⟨hlater, _⟩, _⟩ := writeAll_writesNoFlags rest (s.writeX q.1 q.2)
    exact (hlater.regs q.1 hne.2 hq).trans (x32_writeX_same s q.2 hne.1 hne.2)

end Sys2Proof.Machine
end

section
/-! Branches that exchange (40_alu_primitives.md R146, R148): what BX, BLX and a load of the PC leave outside an
exception return. -/

namespace Sys2Proof.Machine

variable {s t : State} {rs : List RegNum}

/-- R339: where the mode is that of `s`, a value that is no exception return in `s` is none. -/
theorem isExceptionReturn_eq_false {a : Word} (hmode : t.mode = s.mode)
    (h : ¬(s.mode = .handler ∧ a.getLsbD 0 = true ∧ a.extractLsb' 28 4 = 0xF#4)) :
    t.isExceptionReturn a = false := by
  rw [← Bool.not_eq_true, State.isExceptionReturn, hmode]
  simpa [and_assoc] using h

/-- R146: outside an exception return, `BXWritePC` after the register writes of an instruction. -/
theorem WritesNoFlags.bxWritePC (h : WritesNoFlags s t rs) {a : Word}
    (hret : ¬(s.mode = .handler ∧ a.getLsbD 0 = true ∧ a.extractLsb' 28 4 = 0xF#4)) :
    ∃ u, t.bxWritePC a = .next u ∧ (∀ r, r ≠ 15#4 → u.x32 r = t.x32 r) ∧ u.pc = a &&& 0xFFFFFFFE#32 ∧
      u.psr = { s.psr with t := a.getLsbD 0 } ∧ Frame s u rs ∧ SameMemory s u := by
  obtain ⟨⟨hframe, hmem, _⟩, hpsr⟩ := h
  refine ⟨_, bxWritePC_branch (isExceptionReturn_eq_false hframe.mode hret), fun r hr => ?_, rfl, ?_,
    (hframe.setPsr _).setPc _, hmem⟩
  · rw [x32_setPc _ _ hr, setPsr_x32]
  · rw [hpsr]
    rfl

theorem exec_bx (rm : RegNum) (sb : BitVec 3) (s : State) :
    exec (.bx rm sb) s =
      guarded (.bx rm sb) (s.psr.inITNotLast || rm == 15#4) s fun s => s.bxWritePC (s.x16 rm) := rfl

/-- R214: the target is read before LR is written. -/
theorem exec_blxReg (rm : RegNum) (sb : BitVec 3) (s : State) :
    exec (.blxReg rm sb) s =
      guarded (.blxReg rm sb) (rm == 15#4 || s.psr.inITNotLast) s fun s =>
        (s.writeX 14#4 (clearBit0 s.pc ||| 1)).bxWritePC (s.x16 rm) := rfl

/-- R113 (a), R213, R214: the UNPREDICTABLE operands of BX and BLX. -/
theorem exchangeUnpredictable_iff (s : State) (rm : RegNum) :
    (rm == 15#4 || s.psr.inITNotLast) = true ↔
      rm = 15#4 ∨ (s.psr.inITBlock = true ∧ s.psr.lastInITBlock = false) := by
  simp [Psr.inITNotLast]

/-- Settles O21: `BXWritePC`, after the write of LR where the instruction is BLX. -/
theorem branchExchangeResults : Obligations.BranchExchangeResults := by
  intro s rm sb hc hret
  rw [OnlyLogs, OnlyLogs, Completes, Completes, exec_bx, exec_blxReg, Bool.or_comm]
  split
  case isTrue hunpredictable =>
    have hu := (exchangeUnpredictable_iff s rm).mpr hunpredictable
    exact ⟨prologue_unpredictable hu, prologue_unpredictable hu⟩
  case isFalse hok =>
    have hu := Bool.eq_false_iff.mpr (mt (exchangeUnpredictable_iff s rm).mp hok)
    rw [guarded_run hu hc, guarded_run hu hc]
    constructor
    · obtain ⟨u, hexec, _, hbranch⟩ := (WritesNoFlags.refl s).bxWritePC hret
      exact ⟨u, hexec, by simpa only [and_assoc] using hbranch⟩
    · have hlink := writeX_writesNoFlags s 14#4 (clearBit0 s.pc ||| 1)
      obtain ⟨u, hexec, hregs, hpc, hpsr, hframe⟩ := hlink.bxWritePC hret
      have hlr : u.x32 14#4 = clearBit0 s.pc ||| 1 :=
        (hregs 14#4 (by decide)).trans (x32_writeX_same s _ (by decide) (by decide))
      exact ⟨u, hexec, hpc, hpsr, hlr, hframe⟩

/-! ### Loads of the PC -/

theorem nodup_regsOf (mask : BitVec 16) : (regsOf mask).Nodup := List.Nodup.filter _ (by decide)

theorem spPc_not_mem_regsOf {mask : BitVec 16} (h13 : mask.getLsbD 13 = false) (h15 : mask.getLsbD 15 = false) :
    ∀ r ∈ regsOf mask, r ∉ [13#4, 15#4] := by
  intro r hr hspPc
  rw [mem_regsOf] at hr
  obtain rfl | rfl : r = 13#4 ∨ r = 15#4 := by simpa using hspPc
  · exact Bool.false_ne_true (h13.symm.trans hr)
  · exact Bool.false_ne_true (h15.symm.trans hr)

/-- R281: a 16-bit list names low registers only. -/
theorem maskLow_spPc (l : BitVec 8) : ∀ r ∈ regsOf (maskLow l), r ∉ [13#4, 15#4] :=
  spPc_not_mem_regsOf (by simp [maskLow]) (by simp [maskLow])

/-- R114: a 32-bit list never transfers SP, and the PC is transferred apart. -/
theorem maskWide_spPc (m : Bool) (l : BitVec 13) : ∀ r ∈ regsOf (maskWide m l), r ∉ [13#4, 15#4] :=
  spPc_not_mem_regsOf
    (by rw [maskWide, BitVec.getLsbD_append (m := 13), BitVec.getLsbD_append (m := 1)]; rfl)
    (by rw [maskWide, BitVec.getLsbD_append (m := 13), BitVec.getLsbD_append (m := 1),
          BitVec.getLsbD_append (m := 1)]; rfl)

/-- What the committing part of a load form with the PC relies on: the registers are distinct, none of them is SP or
the PC, and the write-back is a word address that goes to another register. -/
structure PcLoadOperands (regs : List RegNum) (wb : Option (RegNum × Word)) : Prop where
  nodup : regs.Nodup
  spPc : ∀ r ∈ regs, r ∉ [13#4, 15#4]
  writeBack : ∀ n v, wb = some (n, v) → n ∉ regs ∧ n ≠ 15#4 ∧ aligned v .word = true

/-- R261, R292: the base is SP, which no list names. -/
theorem pcLoadOperands_sp {mask : BitVec 16} {v : Word} (hspPc : ∀ r ∈ regsOf mask, r ∉ [13#4, 15#4])
    (hv : aligned v .word = true) : PcLoadOperands (regsOf mask) (some (13#4, v)) where
  nodup := nodup_regsOf mask
  spPc := hspPc
  writeBack := by
    rintro n v ⟨⟩
    exact ⟨fun hmem => hspPc _ hmem (by simp), by decide, hv⟩

/-- R291, R295: a base that is written back is not in the list. -/
theorem pcLoadOperands_base {mask : BitVec 16} {w : Bool} {n : RegNum} {v : Word}
    (hspPc : ∀ r ∈ regsOf mask, r ∉ [13#4, 15#4]) (hn : n ≠ 15#4) (hw : ¬(w = true ∧ n ∈ regsOf mask))
    (hv : aligned v .word = true) : PcLoadOperands (regsOf mask) (if w then some (n, v) else none) where
  nodup := nodup_regsOf mask
  spPc := hspPc
  writeBack := by
    intro n' v' hwb
    obtain ⟨hwrite, ⟨⟩⟩ := Option.ite_none_right_eq_some.mp hwb
    exact ⟨fun hmem => hw ⟨hwrite, hmem⟩, hn, hv⟩

theorem LoadForm.pcLoadOperands {i : Instr} {regs : List RegNum} {start : Word} {wb : Option (RegNum × Word)}
    (hf : LoadForm s i regs true start wb) (ha : aligned start .word = true) : PcLoadOperands regs wb := by
  cases hf with
  | pop _ l => exact pcLoadOperands_sp (maskLow_spPc l) (aligned_wordAt ha _)
  | popW _ m _ l => exact pcLoadOperands_sp (maskWide_spPc m l) (aligned_wordAt ha _)
  | ldmW w n _ m _ l _ hn hw => exact pcLoadOperands_base (maskWide_spPc m l) hn hw (aligned_wordAt ha _)
  | ldmdb w n _ m _ l _ _ hn hw => exact pcLoadOperands_base (maskWide_spPc m l) hn hw ha

/-- Draws of free values change nothing that `WritesNoFlags` speaks of. -/
theorem draws_writesNoFlags (s : State) (ix : Nat) : WritesNoFlags s { s with freeIx := ix } [] :=
  ⟨⟨{ Frame.refl s with }, fun _ => rfl, rfl⟩, rfl⟩

theorem afterRead_writesNoFlags (s : State) (a : Word) (sz : Size) : WritesNoFlags s (s.afterRead a sz) [] := by
  obtain ⟨ix, hread⟩ := afterRead_eq s a sz
  exact hread ▸ draws_writesNoFlags s ix

theorem loadRegs_writesNoFlags {a : Word} {vs : List (RegNum × Word)} (h : s.loadRegs a rs = .ok vs t) :
    WritesNoFlags s t [] ∧ vs.map Prod.fst = rs := by
  have hstate := loadRegs_state rs s a
  rw [h] at hstate
  obtain ⟨hregs, ix, rfl⟩ := hstate
  exact ⟨draws_writesNoFlags s ix, hregs⟩

/-- R15, R24: each loaded register reads back what was loaded, the base what was written back. -/
theorem PcLoadOperands.x32 {vs : List (RegNum × Word)} {wb : Option (RegNum × Word)}
    (h : PcLoadOperands (vs.map Prod.fst) wb) (s : State) :
    (∀ p ∈ vs, ((s.writeAll vs).writeBack wb).x32 p.1 = p.2) ∧
      ∀ n v, wb = some (n, v) → ((s.writeAll vs).writeBack wb).x32 n = v := by
  have hmem : ∀ p ∈ vs, p.1 ∈ vs.map Prod.fst := fun p hp => List.mem_map_of_mem hp
  have hloaded := x32_writeAll s h.nodup fun p hp => h.spPc p.1 (hmem p hp)
  cases wb with
  | none => exact ⟨hloaded, by simp⟩
  | some base =>
    obtain ⟨hother, hpc, haligned⟩ := h.writeBack base.1 base.2 rfl
    refine ⟨fun p hp => ?_, ?_⟩
    · exact (x32_writeX_ne _ _ fun he : p.1 = base.1 => hother (he ▸ hmem p hp)).trans (hloaded p hp)
    · rintro n v ⟨⟩
      exact x32_writeX_aligned _ hpc fun _ => haligned

/-- R261, R291, R292, R295: where the PC's word is admitted too, a load form writes its registers and its base, and then
the PC. -/
theorem loadTransfer_pc {regs : List RegNum} {start : Word} {vs : List (RegNum × Word)} (wb : Option (RegNum × Word))
    (ha : aligned start .word = true) (hload : s.loadRegs start regs = .ok vs t)
    (hr : t.readable (wordAt start regs.length) .word = true) :
    loadTransfer regs true start wb s =
      (((t.afterRead (wordAt start regs.length) .word).writeAll vs).writeBack wb).bxWritePC
        (t.readValue (wordAt start regs.length) .word) := by
  simp only [loadTransfer, hload, Access.andThen, loadA_eq, aligned_wordAt ha, hr, if_true]

/-- Settles O29: the loads, the register writes and the write-back, and then the branch of `BXWritePC`. -/
theorem loadOfThePcBranches : Obligations.LoadOfThePcBranches := by
  intro s s1 i regs start wb vs hf hc halign hload hreadable target hret
  have ha : aligned start .word = true := beq_iff_eq.mpr halign
  obtain ⟨hloaded, rfl⟩ := loadRegs_writesNoFlags hload
  let s2 := s1.afterRead (wordAt start (vs.map Prod.fst).length) .word
  have hwrites : WritesNoFlags s ((s2.writeAll vs).writeBack wb) ((wb.map Prod.fst).toList ++ vs.map Prod.fst) :=
    (((hloaded.trans (afterRead_writesNoFlags s1 _ _)).trans (writeAll_writesNoFlags vs s2)).trans
      (writeBack_writesNoFlags _ wb)).mono (List.append_subset.mpr ⟨by simp, by simp⟩)
  have hops := hf.pcLoadOperands ha
  obtain ⟨hregs, hbase⟩ := hops.x32 s2
  obtain ⟨u, hbranch, hkept, hpc, hpsr, hframe⟩ := hwrites.bxWritePC hret
  refine ⟨u, ((exec_of_loadForm hf hc).trans (loadTransfer_pc wb ha hload hreadable)).trans hbranch,
    fun p hp => ?_, fun n v hwb => ?_, hpc, hpsr, hframe⟩
  · have hne : p.1 ≠ 15#4 := fun he => hops.spPc p.1 (List.mem_map_of_mem hp) (by simp [he])
    exact (hkept p.1 hne).trans (hregs p hp)
  · obtain ⟨_, hne, _⟩ := hops.writeBack n v hwb
    exact (hkept n hne).trans (hbase n v hwb)

end Sys2Proof.Machine
end

section
/-! Conditions and IT blocks (40_alu_primitives.md R141, R142; 30_encoding.md R100): the table of the conditions, and
ITSTATE after any number of advances. -/

namespace Sys2Proof.Machine

/-- R141: the sixteen rows of the table. -/
theorem Psr.conditionHolds_table (p : Psr) :
    (p.conditionHolds 0 = true ↔ p.z = true) ∧ (p.conditionHolds 1 = true ↔ p.z = false) ∧
      (p.conditionHolds 2 = true ↔ p.c = true) ∧ (p.conditionHolds 3 = true ↔ p.c = false) ∧
      (p.conditionHolds 4 = true ↔ p.n = true) ∧ (p.conditionHolds 5 = true ↔ p.n = false) ∧
      (p.conditionHolds 6 = true ↔ p.v = true) ∧ (p.conditionHolds 7 = true ↔ p.v = false) ∧
      (p.conditionHolds 8 = true ↔ p.c = true ∧ p.z = false) ∧
      (p.conditionHolds 9 = true ↔ p.c = false ∨ p.z = true) ∧
      (p.conditionHolds 10 = true ↔ p.n = p.v) ∧ (p.conditionHolds 11 = true ↔ p.n ≠ p.v) ∧
      (p.conditionHolds 12 = true ↔ p.z = false ∧ p.n = p.v) ∧
      (p.conditionHolds 13 = true ↔ p.z = true ∨ p.n ≠ p.v) ∧
      p.conditionHolds 14 = true ∧ p.conditionHolds 15 = true := by
  simp [Psr.conditionHolds, Psr.baseCondition]

/-! ### ITSTATE as the part that stays and the part that moves -/

/-- R100: an advance keeps ITSTATE[7:5] and shifts ITSTATE[4:0], or ends the block when no bit of the mask is left. -/
theorem itAdvanceByte_append (kept : BitVec 3) (moved : BitVec 5) :
    itAdvanceByte (kept ++ moved) = if moved.extractLsb' 0 4 <<< 1 = 0#4 then 0#8 else kept ++ moved <<< 1 := by
  have hlow : (kept ++ moved).extractLsb' 0 3 = 0#3 ↔ moved.extractLsb' 0 4 <<< 1 = 0#4 := by
    rw [(extractLsb'_append 5).1 kept moved (by decide)]
    revert moved
    decide
  have hkept : (kept ++ moved).extractLsb' 5 3 = kept := BitVec.extractLsb'_append_eq_left
  have hmoved : (kept ++ moved).extractLsb' 0 5 = moved := BitVec.extractLsb'_append_eq_right
  simp only [itAdvanceByte, hlow, hkept, hmoved]
  rfl

theorem itAdvanceByte_zero : itAdvanceByte 0#8 = 0#8 := rfl

/-- The mask bits of a shifted ITSTATE[4:0] are the shifted mask. -/
theorem extractLsb'_shiftLeft_mask (moved : BitVec 5) (k : Nat) :
    (moved <<< k).extractLsb' 0 4 = moved.extractLsb' 0 4 <<< k := by
  simp only [← BitVec.setWidth_eq_extractLsb' (show 4 ≤ 5 by decide)]
  exact BitVec.setWidth_shiftLeft_of_le (by decide)

/-- R100: after `k` advances the mask has moved by `k`, or the block has ended. -/
theorem itAdvanceByte_iterate (kept : BitVec 3) {moved : BitVec 5} (hmask : moved.extractLsb' 0 4 ≠ 0#4) (k : Nat) :
    itAdvanceByte^[k] (kept ++ moved) = if moved.extractLsb' 0 4 <<< k = 0#4 then 0#8 else kept ++ moved <<< k := by
  induction k with
  | zero => simp [hmask]
  | succ k ih =>
    rw [Function.iterate_succ_apply', ih, BitVec.shiftLeft_add, BitVec.shiftLeft_add]
    split
    case isTrue hended => simp [hended, itAdvanceByte_zero]
    case isFalse => rw [itAdvanceByte_append, extractLsb'_shiftLeft_mask]

/-- ITSTATE[7:4] of a byte in its two parts. -/
theorem currentCond_append (kept : BitVec 3) (moved : BitVec 5) :
    (kept ++ moved).extractLsb' 4 4 = kept ++ BitVec.ofBool (moved.getLsbD 4) := by
  refine BitVec.eq_of_getLsbD_eq fun k hk => ?_
  rw [BitVec.getLsbD_extractLsb', BitVec.getLsbD_append (m := 5), BitVec.getLsbD_append (m := 1)]
  cases k with
  | zero => simp
  | succ k => simp [hk, show ¬4 + (k + 1) < 5 by omega, show 4 + (k + 1) - 5 = k by omega]

/-- R100: of ITSTATE as IT writes it, firstcond[3:1] stays and firstcond[0] moves with the mask. -/
theorem firstcond_append_mask (firstcond mask : BitVec 4) :
    firstcond ++ mask = firstcond.extractLsb' 1 3 ++ (firstcond.extractLsb' 0 1 ++ mask) :=
  have hsplit : firstcond.extractLsb' 1 3 ++ firstcond.extractLsb' 0 1 = firstcond :=
    BitVec.extractLsb'_append_extractLsb' (w := 3)
  (congrArg (· ++ mask) hsplit.symm).trans BitVec.append_assoc

/-- R142, R100: ITSTATE[4] after `k` advances of a block that goes on. -/
theorem getLsbD_shiftLeft_firstcond_mask (c : BitVec 1) (mask : BitVec 4) {k : Nat} (hk : k ≤ 4) :
    ((c ++ mask) <<< k).getLsbD 4 = if k = 0 then c.getLsbD 0 else mask.getLsbD (4 - k) := by
  rw [BitVec.getLsbD_shiftLeft, BitVec.getLsbD_append (m := 4)]
  cases k with
  | zero => simp
  | succ k => simp [show ¬4 < k + 1 by omega, show ¬4 ≤ 3 - k by omega]

/-- Settles O34: the table, and the advances of an IT block by `itAdvanceByte_iterate`. -/
theorem conditionsAndItBlocks : Obligations.ConditionsAndItBlocks := by
  refine ⟨fun p => ⟨bne_iff_ne, beq_iff_eq, rfl, rfl⟩, Psr.conditionHolds_table, ?_⟩
  intro firstcond mask k hmask
  have hk : k.val ≤ 4 := Nat.le_of_lt_succ k.isLt
  have hlow : (firstcond.extractLsb' 0 1 ++ mask).extractLsb' 0 4 = mask := BitVec.extractLsb'_append_eq_right
  have hiterate := itAdvanceByte_iterate (firstcond.extractLsb' 1 3) (hlow.trans_ne hmask) k
  rw [hlow] at hiterate
  simp only [firstcond_append_mask, hiterate]
  split
  case isTrue => rfl
  case isFalse hgoes =>
    constructor
    · rwa [(extractLsb'_append 5).1 _ _ (by decide), extractLsb'_shiftLeft_mask, hlow]
    · rw [currentCond_append, getLsbD_shiftLeft_firstcond_mask _ _ hk]
      simp

end Sys2Proof.Machine
end

section
/-! The saturating operations (40_alu_primitives.md R139, R140, R150 to R154): the clamped integers fit the words and
lanes they are written to, and an operation writes its destination and Q alone. -/

namespace Sys2Proof.Machine

variable {s t : State} {d n m : RegNum}

/-! ### Clamped integers -/

/-- R139: a clamped integer is read back from any word that is wide enough. -/
theorem toInt_ofInt_signedSatQ (i : Int) {n w : Nat} (hn : 1 ≤ n) (hw : n ≤ w) :
    (BitVec.ofInt w (signedSatQ i n).1).toInt = (signedSatQ i n).1 := by
  have hpos : (0 : Int) < 2 ^ (n - 1) := by positivity
  have hle : (2 : Int) ^ (n - 1) ≤ 2 ^ (w - 1) := pow_le_pow_right₀ (by decide) (by omega)
  refine BitVec.toInt_ofInt_eq_self (by omega) ?_ ?_ <;> (simp only [signedSatQ]; omega)

/-- R140: a clamped integer is read back, unsigned, from a word. -/
theorem toNat_ofInt_unsignedSatQ (i : Int) {n : Nat} (hn : n ≤ 32) :
    ((BitVec.ofInt 32 (unsignedSatQ i n).1).toNat : Int) = (unsignedSatQ i n).1 := by
  have hpos : (0 : Int) < 2 ^ n := by positivity
  have hle : (2 : Int) ^ n ≤ 2 ^ 32 := pow_le_pow_right₀ (by decide) hn
  rw [BitVec.toNat_ofInt, Int.toNat_of_nonneg (Int.emod_nonneg _ (by decide))]
  refine Int.emod_eq_of_lt ?_ ?_ <;> (simp only [unsignedSatQ]; omega)

/-! ### Packed additions -/

/-- The four bytes of a word put together from them. -/
theorem extractLsb'_lanes8 (l3 l2 l1 l0 : BitVec 8) :
    (l3 ++ l2 ++ l1 ++ l0).extractLsb' 0 8 = l0 ∧ (l3 ++ l2 ++ l1 ++ l0).extractLsb' 8 8 = l1 ∧
      (l3 ++ l2 ++ l1 ++ l0).extractLsb' 16 8 = l2 ∧ (l3 ++ l2 ++ l1 ++ l0).extractLsb' 24 8 = l3 := by
  refine ⟨BitVec.extractLsb'_append_eq_right, ?_, ?_, ?_⟩
  · rw [(extractLsb'_append 8).2 (l3 ++ l2 ++ l1) l0 (by decide)]
    exact BitVec.extractLsb'_append_eq_right
  · rw [(extractLsb'_append 8).2 (l3 ++ l2 ++ l1) l0 (by decide), (extractLsb'_append 8).2 (l3 ++ l2) l1 (by decide)]
    exact BitVec.extractLsb'_append_eq_right
  · rw [(extractLsb'_append 8).2 (l3 ++ l2 ++ l1) l0 (by decide), (extractLsb'_append 8).2 (l3 ++ l2) l1 (by decide)]
    exact BitVec.extractLsb'_append_eq_left

/-- R152: lane by lane, QADD8 is the saturating addition of the lanes. -/
theorem extractLsb'_qadd8 (a b : Word) {k : Nat} (hk : k < 4) :
    (qadd8 a b).1.extractLsb' (8 * k) 8 =
      (satAddLane 8 (a.extractLsb' (8 * k) 8) (b.extractLsb' (8 * k) 8)).1 := by
  obtain ⟨h0, h1, h2, h3⟩ := extractLsb'_lanes8
    (satAddLane 8 (a.extractLsb' 24 8) (b.extractLsb' 24 8)).1
    (satAddLane 8 (a.extractLsb' 16 8) (b.extractLsb' 16 8)).1
    (satAddLane 8 (a.extractLsb' 8 8) (b.extractLsb' 8 8)).1 (satAddLane 8 (a.extractLsb' 0 8) (b.extractLsb' 0 8)).1
  match k with
  | 0 => exact h0
  | 1 => exact h1
  | 2 => exact h2
  | 3 => exact h3

theorem qadd8_saturated (a b : Word) :
    (qadd8 a b).2 = (List.range 4).any fun k =>
      (satAddLane 8 (a.extractLsb' (8 * k) 8) (b.extractLsb' (8 * k) 8)).2 := by
  simp [qadd8, List.range_succ, Bool.or_assoc]

/-- R153: lane by lane, QADD16 is the saturating addition of the lanes. -/
theorem extractLsb'_qadd16 (a b : Word) {k : Nat} (hk : k < 2) :
    (qadd16 a b).1.extractLsb' (16 * k) 16 =
      (satAddLane 16 (a.extractLsb' (16 * k) 16) (b.extractLsb' (16 * k) 16)).1 := by
  match k with
  | 0 => exact BitVec.extractLsb'_append_eq_right
  | 1 => exact BitVec.extractLsb'_append_eq_left (w' := 16)

theorem qadd16_saturated (a b : Word) :
    (qadd16 a b).2 = (List.range 2).any fun k =>
      (satAddLane 16 (a.extractLsb' (16 * k) 16) (b.extractLsb' (16 * k) 16)).2 := by
  simp [qadd16, List.range_succ]

/-! ### The operations -/

/-- R12, R27: only the PC reads differently in a 16-bit and in a 32-bit instruction. -/
theorem x16_eq_x32 (s : State) {r : RegNum} (h : spOrPc r = false) : s.x16 r = s.x32 r := by
  have hpc : r ≠ 15#4 := fun he => by simp [spOrPc, he] at h
  rcases regNum_cases hpc with hlow | rfl | rfl
  · simp [State.x16, State.x32, State.readX, hlow]
  · rfl
  · rfl

/-- Of `t` it is known that the destination got `v`, that Q is set where `saturated`, and that nothing else changed. -/
def SaturatesInto (s t : State) (d : RegNum) (v : Word) (saturated : Bool) : Prop :=
  t.x32 d = v ∧ t.psr = { s.psr with q := s.psr.q || saturated } ∧ Writes s t [d]

/-- R150 to R153: what the four operations have in common. -/
theorem writeX_setQ (s : State) {d : RegNum} (v : Word) (saturated : Bool) (hd : spOrPc d = false) :
    SaturatesInto s ((s.writeX d v).setQ saturated) d v saturated := by
  have hne : d ≠ 13#4 ∧ d ≠ 15#4 := by simpa using spOrPc_eq_false_iff.mp hd
  obtain ⟨⟨hframe, hmem, hpc⟩, hpsr⟩ := writeX_writesNoFlags s d v
  refine ⟨x32_writeX_same s v hne.1 hne.2, ?_, hframe.setPsr _, hmem, hpc⟩
  rw [State.setQ, State.setPsr_psr, hpsr]

/-- R98: an operation runs where its operands are in range and the current condition passes. -/
theorem aluOp_runs {op : AluOp} (hv : op.valid = true) (hc : s.psr.conditionPassed = true) :
    (op.valid && s.psr.conditionPassed) = true := Bool.and_eq_true_iff.mpr ⟨hv, hc⟩

theorem aluOp_skip {op : AluOp} (h : op.valid = false ∨ s.psr.conditionPassed = false) : aluOp op s = s := by
  rcases h with h | h <;> simp [aluOp, h]

theorem aluOp_ssat {sat : Nat} {sh : SatShift} (hv : (AluOp.ssat d n sat sh).valid = true)
    (hc : s.psr.conditionPassed = true) :
    let r := signedSatQ (sh.apply (s.x16 n) s.psr.c).toInt sat
    1 ≤ sat ∧ sat ≤ 32 ∧ SaturatesInto s (aluOp (.ssat d n sat sh) s) d (BitVec.ofInt 32 r.1) r.2 := by
  have hrun : aluOp (.ssat d n sat sh) s = ssatOp d n sat sh s := if_pos (aluOp_runs hv hc)
  simp only [AluOp.valid, Bool.and_eq_true, Bool.not_eq_true', decide_eq_true_eq] at hv
  obtain ⟨⟨⟨⟨hd, _⟩, hpos⟩, hle⟩, _⟩ := hv
  exact ⟨hpos, hle, hrun ▸ writeX_setQ s _ _ hd⟩

theorem aluOp_usat {sat : Nat} {sh : SatShift} (hv : (AluOp.usat d n sat sh).valid = true)
    (hc : s.psr.conditionPassed = true) :
    let r := unsignedSatQ (sh.apply (s.x16 n) s.psr.c).toInt sat
    sat ≤ 31 ∧ SaturatesInto s (aluOp (.usat d n sat sh) s) d (BitVec.ofInt 32 r.1) r.2 := by
  have hrun : aluOp (.usat d n sat sh) s = usatOp d n sat sh s := if_pos (aluOp_runs hv hc)
  simp only [AluOp.valid, Bool.and_eq_true, Bool.not_eq_true', decide_eq_true_eq] at hv
  obtain ⟨⟨⟨hd, _⟩, hle⟩, _⟩ := hv
  exact ⟨hle, hrun ▸ writeX_setQ s _ _ hd⟩

theorem aluOp_qadd8 (hv : (AluOp.qadd8 d n m).valid = true) (hc : s.psr.conditionPassed = true) :
    let r := qadd8 (s.x32 n) (s.x32 m)
    SaturatesInto s (aluOp (.qadd8 d n m) s) d r.1 r.2 := by
  have hrun : aluOp (.qadd8 d n m) s = qadd8Op d n m s := if_pos (aluOp_runs hv hc)
  simp only [AluOp.valid, Bool.and_eq_true, Bool.not_eq_true'] at hv
  obtain ⟨⟨hd, hn⟩, hm⟩ := hv
  rw [hrun, qadd8Op, x16_eq_x32 s hn, x16_eq_x32 s hm]
  exact writeX_setQ s _ _ hd

theorem aluOp_qadd16 (hv : (AluOp.qadd16 d n m).valid = true) (hc : s.psr.conditionPassed = true) :
    let r := qadd16 (s.x32 n) (s.x32 m)
    SaturatesInto s (aluOp (.qadd16 d n m) s) d r.1 r.2 := by
  have hrun : aluOp (.qadd16 d n m) s = qadd16Op d n m s := if_pos (aluOp_runs hv hc)
  simp only [AluOp.valid, Bool.and_eq_true, Bool.not_eq_true'] at hv
  obtain ⟨⟨hd, hn⟩, hm⟩ := hv
  rw [hrun, qadd16Op, x16_eq_x32 s hn, x16_eq_x32 s hm]
  exact writeX_setQ s _ _ hd

theorem aluOp_clrex (hc : s.psr.conditionPassed = true) : aluOp .clrex s = s.setExcl [] := if_pos (aluOp_runs rfl hc)

/-- R152, R153: the destination of a packed addition, lane by lane. -/
theorem SaturatesInto.lanes {w lanes : Nat} {v a b : Word} {saturated : Bool} (hw : 1 ≤ w)
    (h : SaturatesInto s t d v saturated)
    (hlane : ∀ k < lanes,
      v.extractLsb' (w * k) w = (satAddLane w (a.extractLsb' (w * k) w) (b.extractLsb' (w * k) w)).1) :
    ∀ k < lanes, ((t.x32 d).extractLsb' (w * k) w).toInt =
      (signedSatQ ((a.extractLsb' (w * k) w).toInt + (b.extractLsb' (w * k) w).toInt) w).1 := by
  intro k hk
  rw [h.1, hlane k hk]
  exact toInt_ofInt_signedSatQ _ hw (Nat.le_refl w)

/-- Settles O56: each operation writes its destination and Q, with the clamped integers of R139 and R140. -/
theorem saturatingOperationResults : Obligations.SaturatingOperationResults := by
  intro s d n m sat sh x lane clamp
  refine ⟨fun hc => ?_, fun op => aluOp_skip⟩
  refine ⟨fun hv => ?ssat, fun hv => ?usat, fun hv => ?qadd8, fun hv => ?qadd16, aluOp_clrex hc⟩
  case ssat =>
    obtain ⟨hpos, hle, hval, hrest⟩ := aluOp_ssat hv hc
    exact ⟨(congrArg BitVec.toInt hval).trans (toInt_ofInt_signedSatQ x hpos hle), hrest⟩
  case usat =>
    obtain ⟨hle, hval, hrest⟩ := aluOp_usat hv hc
    refine ⟨?_, hrest⟩
    rw [hval]
    exact toNat_ofInt_unsignedSatQ x (by omega)
  case qadd8 =>
    have h := aluOp_qadd8 hv hc
    refine ⟨h.lanes (by decide) fun k => extractLsb'_qadd8 _ _, ?_⟩
    obtain ⟨_, hrest⟩ := h
    rwa [qadd8_saturated] at hrest
  case qadd16 =>
    have h := aluOp_qadd16 hv hc
    refine ⟨h.lanes (by decide) fun k => extractLsb'_qadd16 _ _, ?_⟩
    obtain ⟨_, hrest⟩ := h
    rwa [qadd16_saturated] at hrest

end Sys2Proof.Machine
end

section
/-! What the 16-bit data-processing instructions share (40_alu_primitives.md R130 to R138, R143): their opcodes are read
back, shifts and AddWithCarry are the arithmetic of the spec, and each ends by writing one low register and the status
word, or the status word alone. -/

namespace Sys2Proof.Machine

variable {i : Instr} {s : State} {rd : LowReg}

/-! ### Opcodes -/

/-- R90, R92: the encoding of a well-formed 16-bit instruction is read as that instruction, whatever follows it. -/
theorem decodesAs_encode {hw : Half} (hwf : i.wellFormed = true) (hencode : encode i = [hw]) : DecodesAs hw i := by
  intro hw2
  have hprefix : is32BitPrefix hw = false := by
    obtain ⟨hw1, h, hprefix⟩ | ⟨hw1, hw2, h, _⟩ := encodedLength i hwf
    · cases hencode.symm.trans h
      exact hprefix
    · cases hencode.symm.trans h
  simp [decodeOpcode, hprefix, decode16_encode hwf hencode]

/-! ### Shifts -/

/-- R130, R135: LSL multiplies by a power of two. -/
theorem shiftC_lsl_toNat (x : Word) (n : Nat) (c : Bool) :
    (shiftC x .lsl n c).1.toNat = x.toNat * 2 ^ n % 2 ^ 32 := by
  by_cases hn : n = 0
  · simp [shiftC, hn, Nat.mod_eq_of_lt x.isLt]
  · simp [shiftC, lslC, hn, Nat.shiftLeft_eq]

theorem shiftC_lsl_carry (x : Word) (n : Nat) (c : Bool) :
    (shiftC x .lsl n c).2 = if n = 0 then c else if n ≤ 32 then x.getLsbD (32 - n) else false := by
  by_cases hn : n = 0
  · simp [shiftC, hn]
  · by_cases hle : n ≤ 32 <;> simp [shiftC, lslC, hn, hle]

/-- R131, R135: LSR divides by a power of two. -/
theorem shiftC_lsr_toNat (x : Word) (n : Nat) (c : Bool) : (shiftC x .lsr n c).1.toNat = x.toNat / 2 ^ n := by
  by_cases hn : n = 0
  · simp [shiftC, hn]
  · simp [shiftC, lsrC, hn, Nat.shiftRight_eq_div_pow]

theorem shiftC_lsr_carry (x : Word) (n : Nat) (c : Bool) :
    (shiftC x .lsr n c).2 = if n = 0 then c else if n ≤ 32 then x.getLsbD (n - 1) else false := by
  by_cases hn : n = 0
  · simp [shiftC, hn]
  · by_cases hle : n ≤ 32 <;> simp [shiftC, lsrC, hn, hle]

/-- R132, R135: ASR is the floor of the division of the signed value by a power of two. -/
theorem shiftC_asr_toInt (x : Word) (n : Nat) (c : Bool) : (shiftC x .asr n c).1.toInt = x.toInt.fdiv (2 ^ n) := by
  rw [Int.fdiv_eq_ediv_of_nonneg _ (by positivity)]
  by_cases hn : n = 0
  · simp [shiftC, hn]
  · simp [shiftC, asrC, hn, BitVec.toInt_sshiftRight, Int.shiftRight_eq_div_pow]

theorem shiftC_asr_carry (x : Word) (n : Nat) (c : Bool) :
    (shiftC x .asr n c).2 = if n = 0 then c else if n ≤ 32 then x.getLsbD (n - 1) else x.getLsbD 31 := by
  by_cases hn : n = 0
  · simp [shiftC, hn]
  · simp [shiftC, asrC, hn, BitVec.msb_eq_getLsbD_last]

/-- R136: the amount of an LSR or ASR by an immediate. -/
theorem decodeImmShift_lsr_amount (imm5 : BitVec 5) :
    (decodeImmShift 0b01#2 imm5).2 = if imm5 = 0#5 then 32 else imm5.toNat := rfl

theorem decodeImmShift_asr_amount (imm5 : BitVec 5) :
    (decodeImmShift 0b10#2 imm5).2 = if imm5 = 0#5 then 32 else imm5.toNat := rfl

/-- R136: LSR and ASR by an immediate shift by 1 to 32. -/
theorem immShiftAmount_bounds (imm5 : BitVec 5) :
    (if imm5 = 0#5 then 32 else imm5.toNat) ≠ 0 ∧ (if imm5 = 0#5 then 32 else imm5.toNat) ≤ 32 := by
  revert imm5
  decide

/-- Of the carries that an amount may give, the one for 1 to 32. -/
theorem shiftCarry_of_bounds {α : Type} {n : Nat} {a b c : α} (hpos : n ≠ 0) (hle : n ≤ 32) :
    (if n = 0 then a else if n ≤ 32 then b else c) = b := by
  rw [if_neg hpos, if_pos hle]

/-! ### Sums, differences and products -/

/-- R137: AddWithCarry of two words is their sum with its carry and overflow. -/
theorem addWithCarry_eq (x y : Word) (c : Bool) :
    addWithCarry x y c =
      ⟨x + y + BitVec.ofNat 32 c.toNat, sumCarry x y c.toNat, sumOverflow x y c.toNat⟩ := by
  have hresult : BitVec.ofNat 32 (x.toNat + y.toNat + c.toNat) = x + y + BitVec.ofNat 32 c.toNat := by
    simp [BitVec.ofNat_add]
  simp only [addWithCarry, sumCarry, sumOverflow, hresult]

/-- In two's complement, the complement of a word is one less than its negation. -/
theorem toInt_not_eq (y : Word) : (~~~y).toInt = -y.toInt - 1 := by
  have hy := y.isLt
  simp only [BitVec.toInt_eq_toNat_cond, BitVec.toNat_not]
  split <;> split <;> omega

/-- R137: AddWithCarry of a word and a complement is their difference, the complement of the carry being the borrow. -/
theorem addWithCarry_not (x y : Word) (c : Bool) :
    addWithCarry x (~~~y) c =
      ⟨x - y - BitVec.ofNat 32 (!c).toNat, diffCarry x y (!c).toNat, diffOverflow x y (!c).toNat⟩ := by
  have hborrow : c.toNat + (!c).toNat = 1 := by cases c <;> rfl
  have hresult : x + ~~~y + BitVec.ofNat 32 c.toNat = x - y - BitVec.ofNat 32 (!c).toNat := by
    cases c <;> (simp only [Bool.toNat_true, Bool.toNat_false, Bool.not_true, Bool.not_false]; bv_omega)
  have hcarry : sumCarry x (~~~y) c.toNat = diffCarry x y (!c).toNat := by
    simp only [sumCarry, diffCarry, BitVec.toNat_not, decide_eq_decide]
    omega
  have hsum : x.toInt + (~~~y).toInt + c.toNat = x.toInt - y.toInt - (!c).toNat := by
    rw [toInt_not_eq]
    omega
  rw [addWithCarry_eq, hcarry]
  simp only [sumOverflow, diffOverflow, hresult, hsum]

/-- R143: the low 32 bits of the product are the product of the words. -/
theorem mul32_eq (x y : Word) : mul32 x y = x * y := rfl

/-! ### The status word -/

theorem Psr.setNZ_eq (p : Psr) (r : Word) : p.setNZ r = { p with n := r.getLsbD 31, z := decide (r = 0#32) } := rfl

theorem Psr.setNZC_eq (p : Psr) (r : Word) (c : Bool) :
    p.setNZC r c = { p with n := r.getLsbD 31, z := decide (r = 0#32), c := c } := rfl

theorem Psr.setNZCV_eq (p : Psr) (a : AddResult) : p.setNZCV a = p.withNZCV a.result a.carry a.overflow := rfl

/-! ### One low register and the status word -/

theorem lo_ne_spPc (r : LowReg) : lo r ≠ 13#4 ∧ lo r ≠ 15#4 := by
  revert r
  decide

/-- What an instruction that ends in one register write and a status word leaves (R12, R15). -/
theorem completes_of_writeX_setPsr {v : Word} {p : Psr} (h : exec i s = .next ((s.writeX (lo rd) v).setPsr p)) :
    Completes i s fun t => t.x32 (lo rd) = v ∧ t.psr = p ∧ Writes s t [lo rd] := by
  obtain ⟨⟨hframe, hmem, hpc⟩, _⟩ := writeX_writesNoFlags s (lo rd) v
  obtain ⟨hsp, hne⟩ := lo_ne_spPc rd
  exact ⟨_, h, x32_writeX_same s v hsp hne, rfl, hframe.setPsr p, hmem, hpc⟩

/-- What an instruction that ends in a status word leaves. -/
theorem completes_of_setPsr {p : Psr} (h : exec i s = .next (s.setPsr p)) :
    Completes i s fun t => t.psr = p ∧ Writes s t [] :=
  ⟨_, h, rfl, (Frame.refl s).setPsr p, fun _ => rfl, rfl⟩

/-- Inside an IT block the status word stays, so it may be said to be written (R138). -/
theorem writeX_setPsr_self (s : State) (r : RegNum) (v : Word) : (s.writeX r v).setPsr s.psr = s.writeX r v := by
  rw [← State.writeX_psr s v r]
  rfl

/-- R138: a shift writes N, Z and C outside an IT block. -/
theorem finishShift_eq (r : RegNum) (v : Word × Bool) (s : State) :
    finishShift r v s = .next ((s.writeX r v.1).setPsr (s.psr.afterNZC v.1 v.2)) := by
  cases hit : s.psr.inITBlock <;>
    simp [finishShift, State.flagsNZC, Psr.setflags, Psr.afterNZC, hit, Psr.setNZC_eq, writeX_setPsr_self]

/-- R138: a logical instruction writes N and Z outside an IT block. -/
theorem finishLogic_eq (r : RegNum) (v : Word) (s : State) :
    finishLogic r v s = .next ((s.writeX r v).setPsr (s.psr.afterNZ v)) := by
  cases hit : s.psr.inITBlock <;>
    simp [finishLogic, State.flagsNZ, Psr.setflags, Psr.afterNZ, hit, Psr.setNZ_eq, writeX_setPsr_self]

/-- R138: an addition writes N, Z, C and V outside an IT block. -/
theorem finishAdd_eq (r : RegNum) (a : AddResult) (s : State) :
    finishAdd r a s = .next ((s.writeX r a.result).setPsr
      (if s.psr.inITBlock then s.psr else s.psr.withNZCV a.result a.carry a.overflow)) := by
  cases hit : s.psr.inITBlock <;>
    simp [finishAdd, State.flagsNZCV, Psr.setflags, hit, Psr.setNZCV_eq, writeX_setPsr_self]

/-! ### The results of the four families -/

/-- A shift, its value told through the reading `f` (unsigned or signed). -/
theorem shiftsInto_of_exec {α : Type} (f : Word → α) {v : Word × Bool} {a : α} {c : Bool}
    (h : exec i s = finishShift (lo rd) v s) (hval : f v.1 = a) (hcarry : v.2 = c) :
    Completes i s fun t =>
      f (t.x32 (lo rd)) = a ∧ t.psr = s.psr.afterNZC (t.x32 (lo rd)) c ∧ Writes s t [lo rd] := by
  obtain ⟨t, ht, hv, hpsr, hwrites⟩ := completes_of_writeX_setPsr (h.trans (finishShift_eq ..))
  refine ⟨t, ht, hv ▸ hval, ?_, hwrites⟩
  rw [hpsr, hv, hcarry]

theorem logicInto_of_exec {r : Word} (h : exec i s = finishLogic (lo rd) r s) : LogicInto i s (lo rd) r :=
  completes_of_writeX_setPsr (h.trans (finishLogic_eq ..))

theorem addsInto_of_exec (c : Bool) {x y : Word} (h : exec i s = finishAdd (lo rd) (addWithCarry x y c) s) :
    AddsInto i s (lo rd) x y c.toNat := by
  rw [addWithCarry_eq, finishAdd_eq] at h
  exact completes_of_writeX_setPsr h

theorem subtractsInto_of_exec (c : Bool) {x y : Word}
    (h : exec i s = finishAdd (lo rd) (addWithCarry x (~~~y) c) s) :
    SubtractsInto i s (lo rd) x y (!c).toNat := by
  rw [addWithCarry_not, finishAdd_eq] at h
  exact completes_of_writeX_setPsr h

/-- R138: a compare writes N, Z, C and V inside an IT block too. -/
theorem finishCompare_eq (a : AddResult) (s : State) :
    finishCompare a s = .next (s.setPsr (s.psr.withNZCV a.result a.carry a.overflow)) := rfl

theorem compares_of_exec {x y : Word} (h : exec i s = finishCompare (addWithCarry x (~~~y) true) s) :
    Compares i s x y := by
  rw [addWithCarry_not, finishCompare_eq] at h
  simpa [Compares] using completes_of_setPsr h

end Sys2Proof.Machine
end

section
/-! The group shift/add/sub/mov and its companions of data processing (41_shift_add_sub_mov.md R170 to R181;
42_data_processing_register.md R190, R191, R198, R200 to R205). -/

namespace Sys2Proof.Machine

theorem exec_lslImm (imm5 : BitVec 5) (rm rd : LowReg) (s : State) :
    exec (.lslImm imm5 rm rd) s =
      conditional s fun s => finishShift (lo rd) (shiftC (s.x16 (lo rm)) .lsl imm5.toNat s.psr.c) s := rfl

theorem exec_lsrImm (imm5 : BitVec 5) (rm rd : LowReg) (s : State) :
    exec (.lsrImm imm5 rm rd) s =
      conditional s fun s =>
        finishShift (lo rd) (shiftC (s.x16 (lo rm)) .lsr (decodeImmShift 0b01#2 imm5).2 s.psr.c) s := rfl

theorem exec_asrImm (imm5 : BitVec 5) (rm rd : LowReg) (s : State) :
    exec (.asrImm imm5 rm rd) s =
      conditional s fun s =>
        finishShift (lo rd) (shiftC (s.x16 (lo rm)) .asr (decodeImmShift 0b10#2 imm5).2 s.psr.c) s := rfl

/-- Settles O14: the three shifts of R130 to R132 by the amount that R136 decodes. -/
theorem immediateShiftResults : Obligations.ImmediateShiftResults := by
  intro s imm5 rm rd
  refine ⟨?opcodes, fun hc => ?results⟩
  case opcodes =>
    exact ⟨fun hne => decodesAs_encode (bne_iff_ne.mpr hne) rfl, decodesAs_encode rfl rfl, decodesAs_encode rfl rfl⟩
  intro x n
  obtain ⟨hpos, hle⟩ : n ≠ 0 ∧ n ≤ 32 := immShiftAmount_bounds imm5
  refine ⟨fun hne => ?lsl, ?lsr, ?asr⟩
  case lsl =>
    have hn : imm5.toNat = n := (if_neg hne).symm
    have hexec : exec (.lslImm imm5 rm rd) s = finishShift (lo rd) (shiftC x .lsl n s.psr.c) s := by
      rw [exec_lslImm, conditional_run hc, x16_lo, hn]
    exact shiftsInto_of_exec BitVec.toNat hexec (shiftC_lsl_toNat ..)
      ((shiftC_lsl_carry ..).trans (shiftCarry_of_bounds hpos hle))
  case lsr =>
    have hexec : exec (.lsrImm imm5 rm rd) s = finishShift (lo rd) (shiftC x .lsr n s.psr.c) s := by
      rw [exec_lsrImm, conditional_run hc, x16_lo, decodeImmShift_lsr_amount]
    exact shiftsInto_of_exec BitVec.toNat hexec (shiftC_lsr_toNat ..)
      ((shiftC_lsr_carry ..).trans (shiftCarry_of_bounds hpos hle))
  case asr =>
    have hexec : exec (.asrImm imm5 rm rd) s = finishShift (lo rd) (shiftC x .asr n s.psr.c) s := by
      rw [exec_asrImm, conditional_run hc, x16_lo, decodeImmShift_asr_amount]
    exact shiftsInto_of_exec BitVec.toInt hexec (shiftC_asr_toInt ..)
      ((shiftC_asr_carry ..).trans (shiftCarry_of_bounds hpos hle))

/-- Settles O16: every form ends in AddWithCarry of its operands, the subtrahend complemented. -/
theorem addSubtractResults : Obligations.AddSubtractResults := by
  intro s rm rn rd imm3 imm8
  refine ⟨?opcodes, fun hc => ⟨?addReg, ?subReg, ?addImm3, ?subImm3, ?addImm8, ?subImm8⟩⟩
  case opcodes => refine ⟨?_, ?_, ?_, ?_, ?_, ?_⟩ <;> exact decodesAs_encode rfl rfl
  case addReg => exact addsInto_of_exec false ((conditional_run hc).trans (by rw [x16_lo, x16_lo]))
  case subReg => exact subtractsInto_of_exec true ((conditional_run hc).trans (by rw [x16_lo, x16_lo]))
  case addImm3 | addImm8 => exact addsInto_of_exec false ((conditional_run hc).trans (by rw [x16_lo, zext]))
  case subImm3 | subImm8 => exact subtractsInto_of_exec true ((conditional_run hc).trans (by rw [x16_lo, zext]))

theorem exec_tstReg (rm rn : LowReg) (s : State) :
    exec (.tstReg rm rn) s =
      conditional s fun s => .next (s.flagsNZ true (s.x16 (lo rn) &&& s.x16 (lo rm))) := rfl

/-- Settles O18: a compare is AddWithCarry without a destination, TST the conjunction without one. -/
theorem compareAndTestResults : Obligations.CompareAndTestResults := by
  intro s rm rn imm8
  refine ⟨?opcodes, fun hc => ⟨?cmpImm, ?cmpReg, ?cmnReg, ?tstReg⟩⟩
  case opcodes => refine ⟨?_, ?_, ?_, ?_⟩ <;> exact decodesAs_encode rfl rfl
  case cmpImm => exact compares_of_exec ((conditional_run hc).trans (by rw [x16_lo, zext]))
  case cmpReg => exact compares_of_exec ((conditional_run hc).trans (by rw [x16_lo, x16_lo]))
  case cmnReg =>
    have hexec : exec (.cmnReg rm rn) s = finishCompare (addWithCarry (s.x32 (lo rn)) (s.x32 (lo rm)) false) s :=
      (conditional_run hc).trans (by rw [x16_lo, x16_lo])
    rw [addWithCarry_eq, finishCompare_eq] at hexec
    simpa using completes_of_setPsr hexec
  case tstReg =>
    have hexec : exec (.tstReg rm rn) s = .next (s.setPsr (s.psr.setNZ (s.x32 (lo rn) &&& s.x32 (lo rm)))) := by
      rw [exec_tstReg, conditional_run hc, x16_lo, x16_lo]
      rfl
    exact completes_of_setPsr hexec

/-- Settles O19: every form ends as a logical instruction does; MOVS alone looks at the IT block first. -/
theorem logicMoveMultiplyResults : Obligations.LogicMoveMultiplyResults := by
  intro s rm rdn imm8
  refine ⟨?opcodes, fun hc => ⟨?and, ?eor, ?orr, ?bic, ?mvn, ?mul, ?mov, ?movs⟩⟩
  case opcodes => refine ⟨?_, ?_, ?_, ?_, ?_, ?_, ?_, ?_⟩ <;> exact decodesAs_encode rfl rfl
  case and | eor | orr | bic => exact logicInto_of_exec ((conditional_run hc).trans (by rw [x16_lo, x16_lo]))
  case mvn => exact logicInto_of_exec ((conditional_run hc).trans (by rw [x16_lo]))
  case mul => exact logicInto_of_exec ((conditional_run hc).trans (by rw [x16_lo, x16_lo, mul32_eq]))
  case mov => exact logicInto_of_exec (conditional_run hc)
  case movs =>
    split
    case isTrue hit => exact guarded_unpredictable hit
    case isFalse hit =>
      have hit' : s.psr.inITBlock = false := Bool.eq_false_of_not_eq_true hit
      exact logicInto_of_exec ((guarded_run hit' hc).trans (by rw [x16_lo]))

end Sys2Proof.Machine
end

section
/-! Shifts by a register and arithmetic with the carry flag (42_data_processing_register.md R192 to R197, R199). -/

namespace Sys2Proof.Machine

variable {i : Instr} {s : State} {rd rm : LowReg}

/-! ### Shifts by a register -/

/-- R135: the amount is the register modulo 2^8. -/
theorem shiftAmount_eq (x : Word) : shiftAmount x = x.toNat % 256 := by
  simp [shiftAmount, BitVec.extractLsb'_toNat]

/-- R133, R135: ROR is the rotation of the word, the amount taken modulo 32. -/
theorem shiftC_ror_result (x : Word) (n : Nat) (c : Bool) : (shiftC x .ror n c).1 = x.rotateRight n := by
  by_cases hn : n = 0
  · simp [shiftC, hn, BitVec.rotateRight_def]
  · simp [shiftC, rorC, hn, BitVec.rotateRight_def]

theorem shiftC_ror_carry (x : Word) (n : Nat) (c : Bool) :
    (shiftC x .ror n c).2 = if n = 0 then c else (shiftC x .ror n c).1.getLsbD 31 := by
  by_cases hn : n = 0
  · simp [shiftC, hn]
  · simp only [shiftC, rorC, hn, if_false, BitVec.msb_eq_getLsbD_last]

/-- Bit k of a rotated word is bit k + n of the word, counted round the 32. -/
theorem getLsbD_rotateRight_mod (x : Word) (n : Nat) {k : Nat} (hk : k < 32) :
    (x.rotateRight n).getLsbD k = x.getLsbD ((k + n) % 32) := by
  rw [BitVec.getLsbD_rotateRight]
  by_cases hlow : k < 32 - n % 32
  · have hbit : n % 32 + k = (k + n) % 32 := by omega
    rw [decide_eq_true hlow, cond_true, hbit]
  · have hbit : k - (32 - n % 32) = (k + n) % 32 := by omega
    rw [decide_eq_false hlow, cond_false, decide_eq_true hk, Bool.true_and, hbit]

/-- R192 to R194, R197: where its condition passes, a shift by a register shifts the old destination by the low byte of
`rm`. -/
theorem shiftReg_run {ty : ShiftType} (hc : s.psr.conditionPassed = true)
    (h : exec i s = conditional s fun s =>
      finishShift (lo rd) (shiftC (s.x16 (lo rd)) ty (shiftAmount (s.x16 (lo rm))) s.psr.c) s) :
    exec i s = finishShift (lo rd) (shiftC (s.x32 (lo rd)) ty ((s.x32 (lo rm)).toNat % 256) s.psr.c) s := by
  rw [h, conditional_run hc, x16_lo, x16_lo, shiftAmount_eq]

/-- Settles O15: the four shifts of R130 to R133 by the low byte of a register. -/
theorem registerShiftResults : Obligations.RegisterShiftResults := by
  intro s rm rdn
  refine ⟨?opcodes, fun hc => ⟨?lsl, ?lsr, ?asr, ?ror⟩⟩
  case opcodes => refine ⟨?_, ?_, ?_, ?_⟩ <;> exact decodesAs_encode rfl rfl
  case lsl =>
    exact shiftsInto_of_exec BitVec.toNat (shiftReg_run hc rfl) (shiftC_lsl_toNat ..) (shiftC_lsl_carry ..)
  case lsr =>
    exact shiftsInto_of_exec BitVec.toNat (shiftReg_run hc rfl) (shiftC_lsr_toNat ..) (shiftC_lsr_carry ..)
  case asr =>
    exact shiftsInto_of_exec BitVec.toInt (shiftReg_run hc rfl) (shiftC_asr_toInt ..) (shiftC_asr_carry ..)
  case ror =>
    have hexec : exec (.rorReg rm rdn) s = finishShift (lo rdn) (shiftC _ .ror _ s.psr.c) s := shiftReg_run hc rfl
    obtain ⟨t, ht, hvalue, hpsr, hwrites⟩ := completes_of_writeX_setPsr (hexec.trans (finishShift_eq ..))
    refine ⟨t, ht, fun k hk => ?_, ?_, hwrites⟩
    · rw [hvalue, shiftC_ror_result, getLsbD_rotateRight_mod _ _ hk]
    · rw [hpsr, hvalue, shiftC_ror_carry]

/-! ### Arithmetic with the carry flag -/

theorem addWithCarry_comm (x y : Word) (c : Bool) : addWithCarry x y c = addWithCarry y x c := by
  simp only [addWithCarry, Nat.add_comm x.toNat, Int.add_comm x.toInt]

/-- Settles O17: ADC and SBC hand the carry flag to AddWithCarry; RSB adds the complement of its operand to zero. -/
theorem carryArithmeticResults : Obligations.CarryArithmeticResults := by
  intro s rm rdn rn rd
  refine ⟨?opcodes, fun hc => ⟨?adc, ?sbc, ?rsb⟩⟩
  case opcodes => refine ⟨?_, ?_, ?_⟩ <;> exact decodesAs_encode rfl rfl
  case adc =>
    have hcarry : (if s.psr.c then 1 else 0) = s.psr.c.toNat := by cases s.psr.c <;> rfl
    rw [hcarry]
    exact addsInto_of_exec s.psr.c ((conditional_run hc).trans (by rw [x16_lo, x16_lo]))
  case sbc =>
    have hborrow : (if s.psr.c then 0 else 1) = (!s.psr.c).toNat := by cases s.psr.c <;> rfl
    rw [hborrow]
    exact subtractsInto_of_exec s.psr.c ((conditional_run hc).trans (by rw [x16_lo, x16_lo]))
  case rsb =>
    exact subtractsInto_of_exec true ((conditional_run hc).trans (by rw [x16_lo, addWithCarry_comm]; rfl))

end Sys2Proof.Machine
end

section
/-! Special data (43_special_data_bx.md R210 to R212, R215): a result for any register, the PC among them, and what the
instructions of the unpredictable executor leave (30_encoding.md R97). -/

namespace Sys2Proof.Machine

variable {i : Instr} {s : State} {rd : RegNum}

/-! ### A result for any register -/

/-- R24: a register but the PC reads back what was written, SP without its low two bits. -/
theorem x32_writeX_masked (s : State) (v : Word) (hrd : rd ≠ 15#4) :
    (s.writeX rd v).x32 rd = if rd = 13#4 then spMask v else v := by
  simp [State.x32, State.readX_writeX, hrd]

theorem branchWritePC_onlyBranches (s : State) (a : Word) : OnlyBranches s (s.branchWritePC a) (clearBit0 a) :=
  ⟨rfl, rfl, (Frame.refl s).setPc _, fun _ => rfl⟩

/-- R145, R148: a computed value branches where the destination is the PC, and else moves into it. -/
theorem branchesOrMoves_of_exec {v : Word} (h : exec i s = finishAluWrite rd v s) :
    if rd = 15#4 then Completes i s fun t => OnlyBranches s t (v &&& 0xFFFFFFFE#32)
    else MovesInto i s rd (if rd = 13#4 then v &&& 0xFFFFFFFC#32 else v) := by
  rw [finishAluWrite] at h
  split at h
  case isTrue hpc =>
    rw [if_pos hpc]
    exact ⟨_, h, branchWritePC_onlyBranches s v⟩
  case isFalse hpc =>
    rw [if_neg hpc]
    exact ⟨_, h, x32_writeX_masked s v hpc, writeX_writesNoFlags s rd v⟩

/-- R98: where its condition passes, an instruction logs if its UNPREDICTABLE condition holds, and else its body
runs. -/
theorem onlyLogs_or_run {u : Bool} {P Q : Prop} [Decidable P] {body : State → Result}
    (hexec : exec i s = guarded i u s body) (hc : s.psr.conditionPassed = true) (hu : u = true ↔ P)
    (hrun : exec i s = body s → Q) : if P then OnlyLogs i s (.unpredictable i.opcode) else Q := by
  split
  case isTrue hP => exact hexec.trans (prologue_unpredictable (hu.mpr hP))
  case isFalse hP => exact hrun (hexec.trans (guarded_run (Bool.eq_false_iff.mpr (mt hu.mp hP)) hc))

/-! ### High registers -/

theorem exec_addHi (rm rd : RegNum) (s : State) :
    exec (.addHi rm rd) s =
      guarded (.addHi rm rd) ((rd == 15#4 && rm == 15#4) || (rd == 15#4 && s.psr.inITNotLast)) s fun s =>
        finishAluWrite rd (addWithCarry (s.x16 rd) (s.x16 rm) false).result s := rfl

theorem exec_movHi (rm rd : RegNum) (s : State) :
    exec (.movHi rm rd) s =
      guarded (.movHi rm rd) (rd == 15#4 && s.psr.inITNotLast) s fun s => finishAluWrite rd (s.x16 rm) s := rfl

theorem exec_cmpHi (rm rn : RegNum) (s : State) :
    exec (.cmpHi rm rn) s =
      guarded (.cmpHi rm rn) (rn == 15#4 || rm == 15#4) s fun s =>
        finishCompare (addWithCarry (s.x16 rn) (~~~s.x16 rm) true) s := rfl

theorem addWithCarry_false_result (x y : Word) : (addWithCarry x y false).result = x + y := by
  simp [addWithCarry_eq]

/-- R103, R118: a register number of 8 or more has its high bit set. -/
theorem highBit_of_le {r : RegNum} (h : 8 ≤ r.toNat) : r.extractLsb' 3 1 = 1#1 := by
  revert r
  decide

/-- R118, R211: CMP of two registers, one of them high, has an opcode of its own. -/
theorem cmpHi_wellFormed {rm rn : RegNum} (h : 8 ≤ rn.toNat ∨ 8 ≤ rm.toNat) :
    (Instr.cmpHi rm rn).wellFormed = true := by
  rw [Instr.wellFormed, Bool.or_eq_true, beq_iff_eq, beq_iff_eq]
  exact h.symm.imp highBit_of_le highBit_of_le

/-- Settles O20: ADD and MOV end in a write of any register, CMP in AddWithCarry without a destination. -/
theorem highRegisterResults : Obligations.HighRegisterResults := by
  intro s rm rd
  refine ⟨?opcodes, fun hc => ⟨?add, ?mov, ?cmp⟩⟩
  case opcodes =>
    exact ⟨decodesAs_encode rfl rfl, fun hhigh => decodesAs_encode (cmpHi_wellFormed hhigh) rfl,
      decodesAs_encode rfl rfl⟩
  case add =>
    refine onlyLogs_or_run (exec_addHi rm rd s) hc (by simp [Psr.inITNotLast]) fun hrun => ?_
    rw [addWithCarry_false_result] at hrun
    exact branchesOrMoves_of_exec hrun
  case mov =>
    exact onlyLogs_or_run (exec_movHi rm rd s) hc (by simp [Psr.inITNotLast]) branchesOrMoves_of_exec
  case cmp =>
    exact onlyLogs_or_run (exec_cmpHi rm rd s) hc (by simp) compares_of_exec

/-! ### The unpredictable executor -/

/-- R92, R215: the opcode of the CMP low-low slot, its prefix above its operands. -/
theorem opcode_unpredCmpLowLow (low6 : BitVec 6) :
    (Instr.unpredCmpLowLow low6).opcode = 0x4500#32 ||| low6.setWidth 32 :=
  calc
    _ = (0b0100010100#10 ++ low6).setWidth 32 := rfl
    _ = (0b0100010100#10).setWidth 32 <<< 6 ||| low6.setWidth 32 := BitVec.setWidth_append_eq_shiftLeft_setWidth_or
    _ = _ := rfl

/-- R92, R283: the opcode of the UDF slot, its prefix above its immediate. -/
theorem opcode_unpredUdf (imm8 : BitVec 8) : (Instr.unpredUdf imm8).opcode = 0xDE00#32 ||| imm8.setWidth 32 :=
  calc
    _ = (0b11011110#8 ++ imm8).setWidth 32 := rfl
    _ = (0b11011110#8).setWidth 32 <<< 8 ||| imm8.setWidth 32 := BitVec.setWidth_append_eq_shiftLeft_setWidth_or
    _ = _ := rfl

/-- Settles O39: these rows have no prologue, so they log their opcode before any condition is looked at. -/
theorem unpredictableSlotsOnlyLog : Obligations.UnpredictableSlotsOnlyLog := by
  intro s low6 imm8 hw hw1 hw2
  refine ⟨⟨decodesAs_encode rfl rfl, decodesAs_encode rfl rfl⟩, ?cmpLowLow, ?udf, ?nop16, ?nop32⟩
  case cmpLowLow =>
    rw [← opcode_unpredCmpLowLow]
    rfl
  case udf =>
    rw [← opcode_unpredUdf]
    rfl
  case nop16 | nop32 => rfl

end Sys2Proof.Machine
end

section
/-! The 16-bit single loads and stores (44_load_store_single.md R220 to R236): each is one access of the port, at an
address computed from registers and an immediate (20_memory.md R61, R64, R67). -/

namespace Sys2Proof.Machine

variable {i : Instr} {s t : State}

/-! ### Addresses -/

/-- R221 to R228: the address of a register-offset access. -/
theorem regOffsetAddr_eq (s : State) (rn rm : LowReg) : regOffsetAddr s rn rm = s.x32 (lo rn) + s.x32 (lo rm) := by
  rw [regOffsetAddr, x16_lo, x16_lo]

/-- R229 to R234: the address of an access at the offset `d` from a low base register. -/
theorem x16_lo_add (s : State) (rn : LowReg) (d : Word) : s.x16 (lo rn) + d = s.x32 (lo rn) + d := by
  rw [x16_lo]

/-! ### One load -/

/-- R63, R64: an admitted load writes its register after the port has answered. -/
theorem finishLoad_admitted (r : RegNum) (ext : Word → Word) {a : Word} {sz : Size} (hr : s.readable a sz = true) :
    finishLoad r ext (s.loadU a sz) = .next ((s.afterRead a sz).writeX r (ext (s.readValue a sz))) := by
  rw [loadU_eq, if_pos hr]
  rfl

/-- R67: a refused load leaves its LOG event. -/
theorem finishLoad_refused (r : RegNum) (ext : Word → Word) {a : Word} {sz : Size} (hr : ¬s.readable a sz = true) :
    finishLoad r ext (s.loadU a sz) = .next (s.emit (.accessFailed a)) := by
  rw [loadU_eq, if_neg hr]
  rfl

/-- R63, R64, R67, R98: what one load leaves where the condition passes, by the port's answer. -/
theorem loadsInto_of_exec {rt : LowReg} {ext : Word → Word} (addr : State → Word) {a : Word} {sz : Size}
    (hexec : exec i s = conditional s fun s => finishLoad (lo rt) ext (s.loadU (addr s) sz))
    (hc : s.psr.conditionPassed = true) (haddr : addr s = a) : LoadsInto i s (lo rt) a sz ext := by
  rw [conditional_run hc, haddr] at hexec
  unfold LoadsInto
  split
  case isTrue hr =>
    obtain ⟨hsp, hpc⟩ := lo_ne_spPc rt
    exact ⟨_, hexec.trans (finishLoad_admitted _ _ hr), x32_writeX_same _ _ hsp hpc,
      (afterRead_writesNoFlags s a sz).trans (writeX_writesNoFlags _ _ _)⟩
  case isFalse hr => exact hexec.trans (finishLoad_refused _ _ hr)

/-! ### One store -/

theorem Frame.setMem {rs : List RegNum} (h : Frame s t rs) (m : Memory) : Frame s (t.setMem m) rs := { h with }

/-- R64: an admitted store changes no register and no reservation. -/
theorem afterWrite_frame (s : State) (a : Word) (sz : Size) (v : Word) : Frame s (s.afterWrite a sz v) [] := by
  rw [afterWrite_eq_setMem]
  exact (Frame.refl s).setMem _

@[simp] theorem afterWrite_pc (s : State) (a : Word) (sz : Size) (v : Word) : (s.afterWrite a sz v).pc = s.pc := by
  rw [afterWrite_eq_setMem, State.setMem_pc]

/-- R64: an admitted store is its port call. -/
theorem finishStore_admitted {a : Word} {sz : Size} (v : Word) (hw : s.writable a sz = true) :
    finishStore (s.storeU a sz v) = .next (s.afterWrite a sz v) := by
  rw [storeU_eq, if_pos hw]
  rfl

/-- R67: a refused store leaves its LOG event. -/
theorem finishStore_refused {a : Word} {sz : Size} (v : Word) (hw : ¬s.writable a sz = true) :
    finishStore (s.storeU a sz v) = .next (s.emit (.accessFailed a)) := by
  rw [storeU_eq, if_neg hw]
  rfl

/-- R64, R67, R98: what one store of a low register leaves where the condition passes, by the port's answer. -/
theorem storesAt_of_exec {rt : LowReg} (addr : State → Word) {a : Word} {sz : Size}
    (hexec : exec i s = conditional s fun s => finishStore (s.storeU (addr s) sz (s.x16 (lo rt))))
    (hc : s.psr.conditionPassed = true) (haddr : addr s = a) : StoresAt i s a sz (s.x32 (lo rt)) := by
  rw [conditional_run hc, haddr, x16_lo] at hexec
  unfold StoresAt
  split
  case isTrue hw =>
    exact ⟨_, hexec.trans (finishStore_admitted _ hw), afterWrite_storedAt s a sz _, afterWrite_frame s a sz _,
      afterWrite_psr s a sz _, afterWrite_pc s a sz _⟩
  case isFalse hw => exact hexec.trans (finishStore_refused _ hw)

/-! ### The instructions -/

/-- Settles O22: where its condition passes each row is one load, at the address that its rule computes. -/
theorem singleLoadResults : Obligations.SingleLoadResults := by
  intro s rm rn rt imm5 imm8
  refine ⟨?opcodes, fun hc => ⟨?ldrLit, ?ldrReg, ?ldrhReg, ?ldrbReg, ?ldrshReg, ?ldrsbReg, ?ldrImm, ?ldrhImm,
    ?ldrbImm, ?ldrSp⟩⟩
  case opcodes => refine ⟨?_, ?_, ?_, ?_, ?_, ?_, ?_, ?_, ?_, ?_⟩ <;> exact decodesAs_encode rfl rfl
  case ldrLit => exact loadsInto_of_exec (fun s => alignWord (s.x16 15#4) + immWord imm8) rfl hc rfl
  case ldrSp => exact loadsInto_of_exec (fun s => s.x16 13#4 + immWord imm8) rfl hc rfl
  case ldrReg | ldrhReg | ldrbReg | ldrshReg | ldrsbReg =>
    exact loadsInto_of_exec (fun s => regOffsetAddr s rn rm) rfl hc (regOffsetAddr_eq s rn rm)
  case ldrImm => exact loadsInto_of_exec (fun s => s.x16 (lo rn) + immWord imm5) rfl hc (x16_lo_add s rn _)
  case ldrhImm => exact loadsInto_of_exec (fun s => s.x16 (lo rn) + immHalf imm5) rfl hc (x16_lo_add s rn _)
  case ldrbImm => exact loadsInto_of_exec (fun s => s.x16 (lo rn) + zext imm5) rfl hc (x16_lo_add s rn _)

/-- Settles O23: where its condition passes each row is one store, at the address that its rule computes. -/
theorem singleStoreResults : Obligations.SingleStoreResults := by
  intro s rm rn rt imm5 imm8
  refine ⟨?opcodes, fun hc => ⟨?strReg, ?strhReg, ?strbReg, ?strImm, ?strhImm, ?strbImm, ?strSp⟩⟩
  case opcodes => refine ⟨?_, ?_, ?_, ?_, ?_, ?_, ?_⟩ <;> exact decodesAs_encode rfl rfl
  case strReg | strhReg | strbReg =>
    exact storesAt_of_exec (fun s => regOffsetAddr s rn rm) rfl hc (regOffsetAddr_eq s rn rm)
  case strImm => exact storesAt_of_exec (fun s => s.x16 (lo rn) + immWord imm5) rfl hc (x16_lo_add s rn _)
  case strhImm => exact storesAt_of_exec (fun s => s.x16 (lo rn) + immHalf imm5) rfl hc (x16_lo_add s rn _)
  case strbImm => exact storesAt_of_exec (fun s => s.x16 (lo rn) + zext imm5) rfl hc (x16_lo_add s rn _)
  case strSp => exact storesAt_of_exec (fun s => s.x16 13#4 + immWord imm8) rfl hc rfl

end Sys2Proof.Machine
end

section
/-! Multiple and dual transfers whose words are all admitted (45_misc16.md R260, R261; 46_multiple16_branch_svc.md R280,
R281; 47_load_store_multiple32.md R290 to R295; 48_dual_exclusive_tablebranch32.md R302 to R304): the run of stores or
loads, then the registers and the base. -/

namespace Sys2Proof.Machine

variable {i : Instr} {s : State} {regs : List RegNum} {start : Word} {wb : Option (RegNum × Word)}

/-! ### The write-back -/

/-- What a write-back needs to be read back as it was written: the base is not the PC, and its new value is a word
address, which SP holds unchanged (R24). -/
def WriteBackReads (wb : Option (RegNum × Word)) : Prop :=
  ∀ n v, wb = some (n, v) → n ≠ 15#4 ∧ aligned v .word = true

theorem writeBackReads_some {n : RegNum} {v : Word} (hn : n ≠ 15#4) (hv : aligned v .word = true) :
    WriteBackReads (some (n, v)) := by
  rintro n' v' ⟨⟩
  exact ⟨hn, hv⟩

theorem writeBackReads_ite {w : Bool} {n : RegNum} {v : Word} (hn : n ≠ 15#4) (hv : aligned v .word = true) :
    WriteBackReads (if w then some (n, v) else none) := by
  intro n' v' hwb
  obtain ⟨_, ⟨⟩⟩ := Option.ite_none_right_eq_some.mp hwb
  exact ⟨hn, hv⟩

theorem WriteBackReads.x32 (h : WriteBackReads wb) (s : State) {n : RegNum} {v : Word} (hwb : wb = some (n, v)) :
    (s.writeBack wb).x32 n = v := by
  obtain ⟨hn, hv⟩ := h n v hwb
  subst hwb
  exact x32_writeX_aligned s hn fun _ => hv

/-- R103: the offset of a dual transfer counts words. -/
theorem wordOffset_eq (imm : BitVec 8) : (imm ++ 0#2).setWidth 32 = BitVec.ofNat 32 (4 * imm.toNat) := by
  have himm := imm.isLt
  have hzero : (0#2).toNat = 0 := rfl
  apply BitVec.eq_of_toNat_eq
  rw [BitVec.toNat_setWidth, BitVec.toNat_append, hzero, Nat.or_zero, Nat.shiftLeft_eq, BitVec.toNat_ofNat]
  omega

/-- R302, R303: a dual transfer's offset address is word aligned where its base is. -/
theorem aligned_dualOffset {u : Bool} {base : Word} (imm : BitVec 8) (h : aligned base .word = true) :
    aligned (if u then base + (imm ++ 0#2).setWidth 32 else base - (imm ++ 0#2).setWidth 32) .word = true := by
  rw [wordOffset_eq]
  cases u with
  | true => exact aligned_wordAt h imm.toNat
  | false =>
    simp only [aligned, Size.bytes, beq_iff_eq, Bool.false_eq_true, if_false, BitVec.toNat_sub, BitVec.toNat_ofNat]
      at h ⊢
    omega

/-- R302, R303: the first address of a dual transfer is its base or its base and offset, so the base and offset are word
aligned where the first address is. -/
theorem aligned_offset_of_start {p u : Bool} {base offset : Word} (imm : BitVec 8)
    (hoffset : offset = (if u then base + (imm ++ 0#2).setWidth 32 else base - (imm ++ 0#2).setWidth 32))
    (h : aligned (if p then offset else base) .word = true) : aligned offset .word = true := by
  cases p with
  | true => exact h
  | false => exact hoffset ▸ aligned_dualOffset imm h

/-! ### Stores -/

theorem StoreForm.writeBackReads (hf : StoreForm s i regs start wb) (ha : aligned start .word = true) :
    WriteBackReads wb := by
  cases hf with
  | stm n l => exact writeBackReads_some (lo_ne_spPc n).2 (aligned_wordAt ha _)
  | push | pushW => exact writeBackReads_some (by decide) ha
  | stmW _ _ _ _ _ _ _ hn => exact writeBackReads_ite hn (aligned_wordAt ha _)
  | stmdb _ _ _ _ _ _ _ _ hn => exact writeBackReads_ite hn ha
  | strd p u w n t t2 imm offset _ hn _ _ hoffset =>
    exact writeBackReads_ite hn (aligned_offset_of_start imm hoffset ha)

/-- R63, R67: a store transfer whose words are admitted makes its stores and then its write-back. -/
theorem storeTransfer_ok (wb : Option (RegNum × Word)) (s : State) (ha : aligned start .word = true)
    (hlen : regs.length ≤ 16) (hw : s.wordsWritable start regs.length) :
    ∃ m, storeTransfer regs start wb s = .next ((s.setMem m).writeBack wb) ∧
      SameMemoryOutsideWords s (s.setMem m) start regs.length ∧
      (s.wordsPlain start regs.length → StoredWords s (s.setMem m) start regs) := by
  obtain ⟨m, hstore, houtside, hheld⟩ := storeWords_ok (regs.map s.x32) s start ha (by rwa [List.length_map])
  rw [List.length_map] at houtside hheld
  refine ⟨m, by rw [storeTransfer, hstore]; rfl, houtside, fun hplain => ⟨houtside, fun j r hj => ?_⟩⟩
  exact hheld hplain (by omega) j (s.x32 r) (by rw [List.getElem?_map, hj]; rfl)

/-- A write-back leaves memory as the stores left it. -/
theorem writeBack_mem (s : State) (wb : Option (RegNum × Word)) : (s.writeBack wb).mem = s.mem := by
  cases wb with
  | none => rfl
  | some p => exact State.writeX_mem ..

theorem SameMemoryOutsideWords.congr_right {t t' : State} {k : Nat} (h : SameMemoryOutsideWords s t start k)
    (hmem : t'.mem = t.mem) : SameMemoryOutsideWords s t' start k := by
  simp only [SameMemoryOutsideWords, hmem]
  exact h

theorem StoredWords.congr_right {t t' : State} (h : StoredWords s t start regs) (hmem : t'.mem = t.mem) :
    StoredWords s t' start regs := by
  obtain ⟨houtside, hheld⟩ := h
  refine ⟨houtside.congr_right hmem, ?_⟩
  rwa [hmem]

/-- Settles O27: the stores take the registers before the write-back, and the write-back reaches the base alone. -/
theorem storeMultipleResults : Obligations.StoreMultipleResults := by
  intro s i regs start wb hf hc halign hw
  have ha : aligned start .word = true := beq_iff_eq.mpr halign
  obtain ⟨m, hexec, houtside, hstored⟩ := storeTransfer_ok wb s ha hf.length_bounds.2 hw
  have hmem := writeBack_mem (s.setMem m) wb
  obtain ⟨⟨hframe, _, hpc⟩, hpsr⟩ := writeBack_writesNoFlags (s.setMem m) wb
  exact ⟨_, (exec_of_storeForm hf hc).trans hexec, houtside.congr_right hmem,
    fun hplain => (hstored hplain).congr_right hmem, fun n v => (hf.writeBackReads ha).x32 _,
    ((Frame.refl s).setMem m).trans hframe, hpsr, hpc⟩

/-! ### Loads -/

/-- R303, R304: the registers of a dual load. -/
theorem spPc_pair {t t2 : RegNum} (ht : t ∉ [13#4, 15#4]) (ht2 : t2 ∉ [13#4, 15#4]) :
    ∀ r ∈ [t, t2], r ∉ [13#4, 15#4] :=
  List.forall_mem_cons.mpr ⟨ht, List.forall_mem_singleton.mpr ht2⟩

/-- R281, R291, R292, R295, R303, R304: without the PC too, a load form's registers are distinct, and its base is
another register. -/
theorem LoadForm.operands (hf : LoadForm s i regs false start wb) (ha : aligned start .word = true) :
    PcLoadOperands regs wb := by
  cases hf with
  | ldm n l =>
    refine ⟨nodup_regsOf _, maskLow_spPc l, fun n' v hwb => ?_⟩
    obtain ⟨hother, ⟨⟩⟩ := Option.ite_none_left_eq_some.mp hwb
    exact ⟨hother, (lo_ne_spPc n).2, aligned_wordAt ha _⟩
  | pop _ l => exact pcLoadOperands_sp (maskLow_spPc l) (aligned_wordAt ha _)
  | popW _ m _ l => exact pcLoadOperands_sp (maskWide_spPc m l) (aligned_wordAt ha _)
  | ldmW w n _ m _ l _ hn hw => exact pcLoadOperands_base (maskWide_spPc m l) hn hw (aligned_wordAt ha _)
  | ldmdb w n _ m _ l _ _ hn hw => exact pcLoadOperands_base (maskWide_spPc m l) hn hw ha
  | ldrd p u w n t t2 imm offset hw hn ht ht2 hne hoffset =>
    refine ⟨List.pairwise_pair.mpr hne, spPc_pair ht ht2, fun n' v hwb => ?_⟩
    obtain ⟨hwrite, ⟨⟩⟩ := Option.ite_none_right_eq_some.mp hwb
    exact ⟨by simpa [hwrite] using hw, hn, aligned_offset_of_start imm hoffset ha⟩
  | ldrdLit p u t t2 imm ht ht2 hne =>
    exact ⟨List.pairwise_pair.mpr hne, spPc_pair ht ht2, fun n v hwb => nomatch hwb⟩

/-- Settles O28: all words are loaded before a register is written, and the base is not one of the loaded registers. -/
theorem loadMultipleResults : Obligations.LoadMultipleResults := by
  intro s i regs start wb hf hc halign hr
  have ha : aligned start .word = true := beq_iff_eq.mpr halign
  obtain ⟨vs, ix, hload, rfl, hvalues⟩ := loadRegs_ok regs s start ha hr
  let s1 : State := { s with freeIx := ix }
  have hexec : exec i s = .next ((s1.writeAll vs).writeBack wb) := by
    rw [exec_of_loadForm hf hc, loadTransfer, hload]
    rfl
  obtain ⟨hregs, hbase⟩ := (hf.operands ha).x32 s1
  refine ⟨_, hexec, fun hplain j r hj _ => ?_, hbase, ?_⟩
  · rw [List.getElem?_map, Option.map_eq_some_iff] at hj
    obtain ⟨⟨r', v⟩, hv, rfl⟩ := hj
    rw [← hvalues hplain j _ v hv]
    exact hregs _ (List.mem_of_getElem? hv)
  · exact (((draws_writesNoFlags s ix).trans (writeAll_writesNoFlags vs s1)).trans
      (writeBack_writesNoFlags _ wb)).mono (List.append_subset.mpr ⟨by simp, by simp⟩)

end Sys2Proof.Machine
end

section
/-! Address generation and the miscellaneous 16-bit group without its memory accesses (45_misc16.md R250 to R259, R262
to R273): one register written and no flag, a branch on a register, the masks, ITSTATE, or nothing. -/

namespace Sys2Proof.Machine

variable {i : Instr} {s : State}

/-! ### One register written and no flag -/

/-- R12, R24: what an instruction that ends in the write of one register but the PC leaves. -/
theorem movesInto_of_exec {rd : RegNum} {v : Word} (h : exec i s = finishWrite rd v s) (hrd : rd ≠ 15#4) :
    MovesInto i s rd (if rd = 13#4 then spMask v else v) :=
  ⟨_, h, x32_writeX_masked s v hrd, writeX_writesNoFlags s rd v⟩

theorem movesInto_lo_of_exec {rd : LowReg} {v : Word} (h : exec i s = finishWrite (lo rd) v s) :
    MovesInto i s (lo rd) v := by
  obtain ⟨hsp, hpc⟩ := lo_ne_spPc rd
  simpa only [if_neg hsp] using movesInto_of_exec h hpc

/-- Settles O24: each form ends in one register write; those to SP are masked by R24. -/
theorem addressAndStackAdjustResults : Obligations.AddressAndStackAdjustResults := by
  intro s rd imm8 imm7
  refine ⟨?opcodes, fun hc => ⟨?adr, ?addSpImm8, ?addSpImm7, ?subSpImm7⟩⟩
  case opcodes => refine ⟨?_, ?_, ?_, ?_⟩ <;> exact decodesAs_encode rfl rfl
  case adr | addSpImm8 => exact movesInto_lo_of_exec (conditional_run hc)
  case addSpImm7 | subSpImm7 => exact movesInto_of_exec (conditional_run hc) (by decide)

/-! ### Extends and reversals -/

/-- R258, R259: the low `n` bits, zero-extended, are those that a mask keeps. -/
theorem zext_lowBits (v : Word) {n : Nat} (hn : n ≤ 32) :
    zext (v.extractLsb' 0 n) = v &&& BitVec.ofNat 32 (2 ^ n - 1) := by
  have hpos := Nat.two_pow_pos n
  have hmask : 2 ^ n - 1 < 2 ^ 32 := by
    have hle : 2 ^ n ≤ 2 ^ 32 := Nat.pow_le_pow_right (by decide) hn
    omega
  have hlow : v.toNat % 2 ^ n < 2 ^ 32 := (Nat.mod_le _ _).trans_lt v.isLt
  apply BitVec.eq_of_toNat_eq
  rw [BitVec.toNat_and, BitVec.toNat_ofNat, Nat.mod_eq_of_lt hmask, Nat.and_two_pow_sub_one_eq_mod, zext,
    BitVec.toNat_setWidth, BitVec.extractLsb'_toNat, Nat.shiftRight_zero, Nat.mod_eq_of_lt hlow]

/-- R262: the four bytes in reverse order, by shifts. Bit by bit, the mask keeps the second byte of either operand. -/
theorem revWord_eq (x : Word) :
    revWord x =
      (x <<< 24) ||| ((x &&& 0xFF00#32) <<< 8) ||| ((x >>> 8) &&& 0xFF00#32) ||| (x >>> 24) := by
  have hmask : ∀ k < 32, (0xFF00#32).getLsbD k = (decide (8 ≤ k) && decide (k < 16)) := by decide
  refine BitVec.eq_of_getLsbD_eq fun k hk => ?_
  simp only [revWord, BitVec.getLsbD_append, BitVec.getLsbD_extractLsb', BitVec.getLsbD_or, BitVec.getLsbD_and,
    BitVec.getLsbD_shiftLeft, BitVec.getLsbD_ushiftRight]
  rw [hmask k hk, hmask (k - 8) (by omega)]
  grind

/-- R263: the bytes of each half swapped, by shifts. Bit by bit, the mask keeps the low byte of each half. -/
theorem revHalves_eq (x : Word) :
    revHalves x = ((x &&& 0x00FF00FF#32) <<< 8) ||| ((x >>> 8) &&& 0x00FF00FF#32) := by
  have hmask : ∀ k < 32,
      (0x00FF00FF#32).getLsbD k = (decide (k < 8) || (decide (16 ≤ k) && decide (k < 24))) := by decide
  refine BitVec.eq_of_getLsbD_eq fun k hk => ?_
  simp only [revHalves, BitVec.getLsbD_append, BitVec.getLsbD_extractLsb', BitVec.getLsbD_or, BitVec.getLsbD_and,
    BitVec.getLsbD_shiftLeft, BitVec.getLsbD_ushiftRight]
  rw [hmask k hk, hmask (k - 8) (by omega)]
  grind

/-- R264: the bytes of the low half swapped, by shifts. -/
theorem revLowHalf_eq (x : Word) :
    x.extractLsb' 0 8 ++ x.extractLsb' 8 8 =
      (((x &&& 0xFF#32) <<< 8) ||| ((x >>> 8) &&& 0xFF#32)).setWidth 16 := by
  have hmask : ∀ k < 32, (0xFF#32).getLsbD k = decide (k < 8) := by decide
  refine BitVec.eq_of_getLsbD_eq fun k hk => ?_
  simp only [BitVec.getLsbD_append, BitVec.getLsbD_extractLsb', BitVec.getLsbD_setWidth, BitVec.getLsbD_or,
    BitVec.getLsbD_and, BitVec.getLsbD_shiftLeft, BitVec.getLsbD_ushiftRight]
  rw [hmask k (by omega), hmask (k - 8) (by omega)]
  grind

/-- R256 to R259, R262 to R264: a row that moves `f` of a low register into a low register. -/
theorem movesInto_of_conditional {rm rd : LowReg} (f : Word → Word) {v : Word}
    (hexec : exec i s = conditional s fun s => finishWrite (lo rd) (f (s.x16 (lo rm))) s)
    (hc : s.psr.conditionPassed = true) (hv : f (s.x32 (lo rm)) = v) : MovesInto i s (lo rd) v := by
  rw [conditional_run hc, x16_lo, hv] at hexec
  exact movesInto_lo_of_exec hexec

/-- Settles O26: each row moves a function of one register, which the lemmas above give as masks and shifts. -/
theorem extendAndReverseResults : Obligations.ExtendAndReverseResults := by
  intro s rm rd
  refine ⟨?opcodes, fun hc => ⟨?sxth, ?sxtb, ?uxth, ?uxtb, ?rev, ?rev16, ?revsh⟩⟩
  case opcodes => refine ⟨?_, ?_, ?_, ?_, ?_, ?_, ?_⟩ <;> exact decodesAs_encode rfl rfl
  case sxth => exact movesInto_of_conditional sextHalf rfl hc rfl
  case sxtb => exact movesInto_of_conditional sextByte rfl hc rfl
  case uxth => exact movesInto_of_conditional (fun x => zext (x.extractLsb' 0 16)) rfl hc (zext_lowBits _ (by decide))
  case uxtb => exact movesInto_of_conditional (fun x => zext (x.extractLsb' 0 8)) rfl hc (zext_lowBits _ (by decide))
  case rev => exact movesInto_of_conditional revWord rfl hc (revWord_eq _)
  case rev16 => exact movesInto_of_conditional revHalves rfl hc (revHalves_eq _)
  case revsh => exact movesInto_of_conditional revSigned rfl hc (congrArg sext (revLowHalf_eq _))

/-! ### Compare and branch -/

/-- R141, R142: outside an IT block the current condition is "always". -/
theorem conditionPassed_of_not_inITBlock {p : Psr} (h : p.inITBlock = false) : p.conditionPassed = true := by
  rw [Psr.conditionPassed, Psr.currentCond, h, if_neg Bool.false_ne_true]
  rfl

/-- R254, R255: a branch that is taken writes the PC and nothing else. -/
theorem onlyBranches_of_compareBranch {b : Bool} {imm5 : BitVec 5} (h : exec i s = compareBranch true b imm5 s) :
    Completes i s fun t =>
      OnlyBranches s t ((s.pc + 2 + (BitVec.ofBool b ++ imm5 ++ 0#1).setWidth 32) &&& 0xFFFFFFFE#32) :=
  ⟨_, h, branchWritePC_onlyBranches s _⟩

theorem exec_cbz (b : Bool) (imm5 : BitVec 5) (rn : LowReg) (s : State) :
    exec (.cbz b imm5 rn) s =
      guarded (.cbz b imm5 rn) s.psr.inITBlock s fun s => compareBranch (s.x16 (lo rn) == 0#32) b imm5 s := rfl

theorem exec_cbnz (b : Bool) (imm5 : BitVec 5) (rn : LowReg) (s : State) :
    exec (.cbnz b imm5 rn) s =
      guarded (.cbnz b imm5 rn) s.psr.inITBlock s fun s => compareBranch (s.x16 (lo rn) != 0#32) b imm5 s := rfl

/-- Settles O25: inside an IT block both log; outside, of the two the one whose test holds branches. -/
theorem compareBranchResults : Obligations.CompareBranchResults := by
  intro s b imm5 rn
  refine ⟨⟨decodesAs_encode rfl rfl, decodesAs_encode rfl rfl⟩, ?_⟩
  intro target
  split
  case isTrue hit => exact ⟨guarded_unpredictable hit, guarded_unpredictable hit⟩
  case isFalse hit =>
    have houtside : s.psr.inITBlock = false := Bool.eq_false_of_not_eq_true hit
    have hc := conditionPassed_of_not_inITBlock houtside
    have hcbz := exec_cbz b imm5 rn s
    have hcbnz := exec_cbnz b imm5 rn s
    rw [guarded_run houtside hc, x16_lo] at hcbz hcbnz
    split
    case isTrue hzero =>
      rw [hzero] at hcbz hcbnz
      exact ⟨onlyBranches_of_compareBranch hcbz, hcbnz⟩
    case isFalse hnonzero =>
      rw [beq_eq_false_iff_ne.mpr hnonzero] at hcbz
      rw [bne_iff_ne.mpr hnonzero] at hcbnz
      exact ⟨onlyBranches_of_compareBranch hcbnz, hcbz⟩

/-! ### The masks and ITSTATE -/

/-- R265: FAULTMASK after CPS. -/
theorem cpsMasks_faultmask (im i f : Bool) (s : State) :
    (cpsMasks im i f s).faultmask =
      if f then (if im then (if s.executionPriority > -1 then true else s.faultmask) else false)
      else s.faultmask := by
  by_cases hpri : -1 < s.executionPriority <;> simp [cpsMasks, hpri]

theorem exec_cps (im : Bool) (sb : BitVec 2) (i f : Bool) (s : State) :
    exec (.cps im sb i f) s =
      guarded (.cps im sb i f) (s.psr.inITBlock || (!i && !f)) s fun s => .next (cpsMasks im i f s) := rfl

/-- Settles O36: the UNPREDICTABLE condition of R265, and the two fields that the body writes. -/
theorem cpsWritesTheMasks : Obligations.CpsWritesTheMasks := by
  intro s im sb i f
  refine ⟨decodesAs_encode rfl rfl, fun hc => ?_⟩
  exact onlyLogs_or_run (exec_cps im sb i f s) hc (by simp) fun hrun =>
    ⟨_, hrun, rfl, cpsMasks_faultmask im i f s, rfl, fun _ => rfl⟩

/-- R267: a mask with one bit is one of four. -/
theorem maskOnes_ne_one_iff (mask : BitVec 4) : maskOnes mask ≠ 1 ↔ mask ∉ [1#4, 2#4, 4#4, 8#4] := by
  revert mask
  decide

theorem exec_it (firstcond mask : BitVec 4) (s : State) :
    exec (.it firstcond mask) s =
      guarded (.it firstcond mask)
        (firstcond == 15#4 || (firstcond == 14#4 && maskOnes mask != 1) || s.psr.inITBlock) s
        fun s => .next { s with psr := { s.psr with itstate := firstcond ++ mask }, itNew := true } := rfl

/-- R100, R267: the advance that follows an IT is suppressed. -/
theorem itAdvance_of_itNew (h : s.itNew = true) : s.itAdvance = s := if_pos h

/-- R267: the UNPREDICTABLE condition of IT. -/
theorem itUnpredictable_iff (firstcond mask : BitVec 4) (s : State) :
    (firstcond == 15#4 || (firstcond == 14#4 && maskOnes mask != 1) || s.psr.inITBlock) = true ↔
      firstcond = 15#4 ∨ (firstcond = 14#4 ∧ mask ∉ [1#4, 2#4, 4#4, 8#4]) ∨ s.psr.inITBlock = true := by
  rw [← maskOnes_ne_one_iff]
  simp [or_assoc]

/-- Settles O37: an IT that is not UNPREDICTABLE stands outside a block, so it always runs. -/
theorem itStartsTheBlock : Obligations.ItStartsTheBlock := by
  intro s firstcond mask
  refine ⟨fun hmask => decodesAs_encode (bne_iff_ne.mpr hmask) rfl, ?_⟩
  split
  case isTrue hunpredictable =>
    have hu := (itUnpredictable_iff firstcond mask s).mpr hunpredictable
    exact (exec_it firstcond mask s).trans (guarded_unpredictable hu)
  case isFalse hok =>
    have hu := Bool.eq_false_iff.mpr (mt (itUnpredictable_iff firstcond mask s).mp hok)
    have houtside : s.psr.inITBlock = false := (Bool.or_eq_false_iff.mp hu).2
    have hc := conditionPassed_of_not_inITBlock houtside
    exact ⟨_, (exec_it firstcond mask s).trans (guarded_run hu hc), rfl, itAdvance_of_itNew rfl, fun _ => rfl⟩

/-! ### Hints and breakpoints -/

/-- R98: an instruction whose body does nothing does nothing whether or not its condition passes. -/
theorem conditional_next (s : State) : (conditional s fun s => .next s) = .next s := ite_self _

/-- Settles O38: the hints have an empty body, BKPT not even a condition. -/
theorem hintsAndBreakpointsChangeNothing : Obligations.HintsAndBreakpointsChangeNothing := by
  intro s opA imm8
  refine ⟨⟨?_, ?_, ?_, ?_, ?_, fun hopA => ?unallocated, ?_⟩, ?hints⟩
  case unallocated => exact decodesAs_encode (by simpa [Instr.wellFormed, and_assoc] using hopA) rfl
  case hints => exact ⟨conditional_next s, conditional_next s, conditional_next s, conditional_next s,
    conditional_next s, conditional_next s, rfl⟩
  all_goals exact decodesAs_encode rfl rfl

end Sys2Proof.Machine
end

section
/-! Branches and SVC (46_multiple16_branch_svc.md R282, R284, R285): a branch writes the PC alone, and SVC throws
exception 11 (60_exceptions.md R330). -/

namespace Sys2Proof.Machine

variable {i : Instr} {s : State} {n : Nat}

/-! ### B and B<cond> -/

theorem exec_bCond (cond : BitVec 4) (imm8 : BitVec 8) (s : State) :
    exec (.bCond cond imm8) s = prologue (.bCond cond imm8) s.psr.inITBlock (s.psr.conditionHolds cond) s
      fun s => .next (s.branchWritePC (s.x16 15#4 + immBranch imm8)) := rfl

theorem exec_b (imm11 : BitVec 11) (s : State) :
    exec (.b imm11) s = prologue (.b imm11) s.psr.inITNotLast s.psr.conditionPassed s
      fun s => .next (s.branchWritePC (s.x16 15#4 + immBranch imm11)) := rfl

/-- R98, R145: a branch by `offset` from the PC read value logs where `P` makes it UNPREDICTABLE, and else is taken
where its condition passes. -/
theorem onlyLogs_or_branches {u passed : Bool} {P : Prop} [Decidable P] {offset : Word}
    (hexec : exec i s = prologue i u passed s fun s => .next (s.branchWritePC (s.x16 15#4 + offset)))
    (hu : u = true ↔ P) :
    if P then OnlyLogs i s (.unpredictable i.opcode)
    else if passed then Completes i s fun t => OnlyBranches s t ((s.pc + 2 + offset) &&& 0xFFFFFFFE#32)
    else exec i s = .next s := by
  split
  case isTrue hP => exact hexec.trans (prologue_unpredictable (hu.mpr hP))
  case isFalse hP =>
    obtain rfl : u = false := Bool.eq_false_iff.mpr (mt hu.mp hP)
    cases passed with
    | true => exact ⟨_, hexec, branchWritePC_onlyBranches s _⟩
    | false => exact hexec

/-- Settles O33: B<cond> has a condition of its own and B that of the IT block, in the same prologue. -/
theorem branchResults : Obligations.BranchResults := by
  intro s cond imm8 imm11
  refine ⟨⟨fun hal hsvc => decodesAs_encode ?_ rfl, decodesAs_encode rfl rfl⟩, ?bCond, ?b⟩
  · simpa [Instr.wellFormed] using ⟨hal, hsvc⟩
  case bCond => exact onlyLogs_or_branches (exec_bCond cond imm8 s) Iff.rfl
  case b => exact onlyLogs_or_branches (exec_b imm11 s) (by simp [Psr.inITNotLast])

/-! ### Throwing an exception -/

theorem insertKey_perm (k : PendingKey) (l : List PendingKey) : (insertKey k l).Perm (k :: l) := by
  induction l with
  | nil => exact .refl _
  | cons j rest ih =>
    rw [insertKey]
    split
    · exact .refl _
    · exact (ih.cons j).trans (.swap k j rest)

theorem count_insertKey (j k : PendingKey) (l : List PendingKey) :
    (insertKey k l).count j = l.count j + if j = k then 1 else 0 := by
  rw [(insertKey_perm k l).count_eq, List.count_cons]
  simp only [beq_iff_eq, eq_comm (a := k)]

theorem throwAccepted_iff :
    s.throwAccepted n = true ↔ 2 ≤ n ∧ n < s.params.nvec ∧ s.nvic.pending.length < s.params.nvec := by
  simp [State.throwAccepted, and_assoc]

/-- R330: a request that is accepted adds one key to the pending store, at the present group priority. -/
theorem throwException_accepted (h : s.throwAccepted n = true) :
    s.throwException n = s.setNvic { s.nvic with pending := (s.throwException n).nvic.pending } ∧
      ∀ k, (s.throwException n).nvic.pending.count k =
        s.nvic.pending.count k + (if k = ⟨s.nvic.groupPri n, n⟩ then 1 else 0) := by
  rw [State.throwException, if_pos h]
  exact ⟨rfl, fun k => count_insertKey k _ _⟩

/-- R330: any other request is dropped. -/
theorem throwException_dropped (h : ¬s.throwAccepted n = true) : s.throwException n = s.emit (.dropped n) := if_neg h

theorem throwException_mem (s : State) (n : Nat) : (s.throwException n).mem = s.mem := by
  rw [State.throwException]
  split <;> rfl

/-! ### SVC -/

theorem exec_svc (imm8 : BitVec 8) (s : State) :
    exec (.svc imm8) s = conditional s fun s => .next (s.throwException 11) := rfl

/-- Settles O35: the controller has exception 11, so the request is dropped only where the store is full. -/
theorem supervisorCallPendsSvcall : Obligations.SupervisorCallPendsSvcall := by
  intro s imm8 hc hnvec
  have haccepted : s.throwAccepted 11 = true ↔ s.nvic.pending.length < s.params.nvec := by
    rw [throwAccepted_iff]
    omega
  refine ⟨_, (exec_svc imm8 s).trans (conditional_run hc), fun a => by rw [throwException_mem], ?_⟩
  split
  case isTrue hroom => exact throwException_accepted (haccepted.mpr hroom)
  case isFalse hfull => exact throwException_dropped (mt haccepted.mp hfull)

end Sys2Proof.Machine
end

section
/-! Exclusive accesses in full (48_dual_exclusive_tablebranch32.md R300, R301, R305 to R308; 20_memory.md R74, R75):
what each outcome of an exclusive load or store leaves in registers, memory and the set of reservations. -/

namespace Sys2Proof.Machine

variable {i : Instr} {s t : State} {a : Word} {sz : Size}

/-! ### Opcodes -/

/-- R90, R92: the encoding of a well-formed 32-bit instruction is read as that instruction. -/
theorem decodesAs32_encode {hw1 hw2 : Half} (hwf : i.wellFormed = true) (hencode : encode i = [hw1, hw2]) :
    DecodesAs32 hw1 hw2 i := by
  have hprefix : is32BitPrefix hw1 = true := by
    obtain ⟨_, h, _⟩ | ⟨_, _, h, hprefix⟩ := encodedLength i hwf
    · cases hencode.symm.trans h
    · cases hencode.symm.trans h
      exact hprefix
  simp [DecodesAs32, decodeOpcode, hprefix, decode32_encode hwf hencode]

/-! ### The set of reservations -/

/-- R74, R75: a match is a record of exactly this address and size. -/
theorem exclusiveHit_iff : s.exclusiveHit a sz = true ↔ (⟨a, sz, 0⟩ : ExclRecord) ∈ s.excl := by
  simp [State.exclusiveHit, exclRecord, Config.coreId]

theorem Size.bytes_pos (sz : Size) : 0 < sz.bytes := by
  cases sz <;> decide

/-- R75: two ranges overlap where they have a byte in common, and then the higher of their first bytes is one. -/
theorem ExclRecord.overlaps_iff_meets (e : ExclRecord) {a n : Nat} (hn : 0 < n) :
    e.overlaps a n = true ↔ e.Meets a n := by
  have hsize := e.size.bytes_pos
  simp only [ExclRecord.overlaps, Bool.and_eq_true, decide_eq_true_eq, ExclRecord.Meets]
  constructor
  · intro h
    exact ⟨max e.addr.toNat a, by omega, by omega, by omega, by omega⟩
  · rintro ⟨b, hb⟩
    omega

/-- R75: the records that an exclusive store leaves. -/
theorem mem_consumeExclusive (s : State) (a : Word) (sz : Size) (e : ExclRecord) :
    e ∈ (s.consumeExclusive a sz).excl ↔ e ∈ s.excl ∧ ¬e.Meets a.toNat sz.bytes := by
  simp [State.consumeExclusive, ← e.overlaps_iff_meets sz.bytes_pos]

/-! ### Frames of a state with other reservations -/

/-- The reservations are no register, so a register write may be taken to come before theirs. -/
theorem writeX_setExcl (s : State) (e : List ExclRecord) (r : RegNum) (v : Word) :
    (s.setExcl e).writeX r v = (s.writeX r v).setExcl e := by
  have hlive : (s.setExcl e).liveProcess = s.liveProcess := rfl
  have hsp : (s.setExcl e).setSp v = (s.setSp v).setExcl e := by
    unfold State.setSp
    rw [hlive]
    split <;> rfl
  unfold State.writeX
  rw [hsp]
  split
  · rfl
  · split
    · rfl
    · split <;> rfl

/-- The frame of new reservations and then one register write. -/
theorem Frame.setExcl_writeX (h : Frame s t []) (e : List ExclRecord) (r : RegNum) (v : Word) :
    RegFrame s ((t.setExcl e).writeX r v) [r] ∧ ControlFrame s ((t.setExcl e).writeX r v) ∧
      ((t.setExcl e).writeX r v).log = s.log := by
  have hwritten := h.trans (writeX_frame t r v)
  rw [writeX_setExcl]
  exact ⟨{ hwritten.toRegFrame with }, { hwritten.toControlFrame with }, hwritten.log⟩

/-! ### Outcomes -/

/-- R65: the alignment test of MemA. -/
theorem aligned_iff : aligned a sz = true ↔ a.toNat % sz.bytes = 0 := beq_iff_eq

/-- R65: a misaligned exclusive load only logs. -/
theorem loadExclusive_misaligned (rt : RegNum) (ha : aligned a sz = false) :
    loadExclusive rt a sz s = .next (s.rejectMisaligned a) := by
  simp [loadExclusive, loadA_eq, ha, Access.andThen]

/-- R67: a refused exclusive load only logs. -/
theorem loadExclusive_refused (rt : RegNum) (ha : aligned a sz = true) (hr : s.readable a sz = false) :
    loadExclusive rt a sz s = .next (s.emit (.accessFailed a)) := by
  simp [loadExclusive, loadA_eq, ha, hr, Access.andThen]

/-- R65: a misaligned exclusive store is rejected before the monitor is asked. -/
theorem storeExclusive_misaligned (rd : RegNum) (v : Word) (ha : aligned a sz = false) :
    storeExclusive rd a sz v s = .next (s.rejectMisaligned a) := by
  simp [storeExclusive, ha]

/-- R67: a refused store after a match only logs. -/
theorem storeExclusive_refused (rd : RegNum) (v : Word) (ha : aligned a sz = true) (hhit : s.exclusiveHit a sz = true)
    (hw : s.writable a sz = false) : storeExclusive rd a sz v s = .next (s.emit (.accessFailed a)) := by
  simp [storeExclusive, storeU_eq, ha, hhit, hw, Access.andThen]

/-- R301, R307, R308: what an exclusive load leaves, by its alignment and the port's answer. -/
theorem loadsExclusive_of_exec {rt : RegNum} (hexec : exec i s = loadExclusive rt a sz s) (hsp : rt ≠ 13#4)
    (hpc : rt ≠ 15#4) : LoadsExclusive i s rt a sz := by
  unfold LoadsExclusive
  split
  case isTrue hmisaligned =>
    exact hexec.trans (loadExclusive_misaligned rt (Bool.eq_false_iff.mpr (mt aligned_iff.mp hmisaligned)))
  case isFalse haligned =>
    have ha : aligned a sz = true := aligned_iff.mpr (not_not.mp haligned)
    split
    case isTrue hr =>
      obtain ⟨⟨hread, hmem, hpcRead⟩, hpsr⟩ := afterRead_writesNoFlags s a sz
      obtain ⟨hregs, hcontrol, hlog⟩ :=
        hread.setExcl_writeX (insertExcl (exclRecord a sz) (s.afterRead a sz).excl) rt (s.readValue a sz)
      refine ⟨_, hexec.trans (loadExclusive_ok rt ha hr), x32_writeX_same _ _ hsp hpc, fun e => ?_, hregs, hcontrol,
        hlog, fun b => ?_, (State.writeX_psr ..).trans hpsr, (State.writeX_pc ..).trans hpcRead⟩
      · rw [State.writeX_excl, State.setExclusive, State.setExcl_excl, mem_insertExcl, hread.excl, or_comm]
        rfl
      · rw [State.writeX_mem]
        exact hmem b
    case isFalse hr => exact hexec.trans (loadExclusive_refused rt ha (Bool.eq_false_iff.mpr hr))

/-- R300, R305, R306: what an exclusive store leaves, by its alignment, the monitor's and the port's answer. -/
theorem storesExclusive_of_exec {rd : RegNum} {v : Word} (hexec : exec i s = storeExclusive rd a sz v s)
    (hsp : rd ≠ 13#4) (hpc : rd ≠ 15#4) : StoresExclusive i s rd a sz v := by
  unfold StoresExclusive
  split
  case isTrue hmisaligned =>
    exact hexec.trans (storeExclusive_misaligned rd v (Bool.eq_false_iff.mpr (mt aligned_iff.mp hmisaligned)))
  case isFalse haligned =>
    have ha : aligned a sz = true := aligned_iff.mpr (not_not.mp haligned)
    split
    case isTrue hrefused =>
      obtain ⟨hhit, hw⟩ := hrefused
      exact hexec.trans (storeExclusive_refused rd v ha (exclusiveHit_iff.mpr hhit) hw)
    case isFalse hadmitted =>
      split
      case isTrue hhit =>
        have hw : s.writable a sz = true := by simpa [hhit] using hadmitted
        have hstored := afterWrite_frame s a sz v
        obtain ⟨hregs, hcontrol, hlog⟩ :=
          hstored.setExcl_writeX ((s.afterWrite a sz v).consumeExclusive a sz).excl rd 0
        refine ⟨_, hexec.trans (storeExclusive_hit rd v ha (exclusiveHit_iff.mpr hhit) hw),
          ⟨x32_writeX_same _ 0 hsp hpc, (afterWrite_storedAt s a sz v).congr_right (State.writeX_mem ..)⟩, fun e => ?_,
          hregs, hcontrol, hlog, (State.writeX_psr ..).trans (afterWrite_psr s a sz v),
          (State.writeX_pc ..).trans (afterWrite_pc s a sz v)⟩
        rw [State.writeX_excl, mem_consumeExclusive, hstored.excl]
      case isFalse hmiss =>
        have hmiss' : s.exclusiveHit a sz = false := Bool.eq_false_iff.mpr (mt exclusiveHit_iff.mp hmiss)
        obtain ⟨hregs, hcontrol, hlog⟩ := (Frame.refl s).setExcl_writeX (s.consumeExclusive a sz).excl rd 1
        refine ⟨_, hexec.trans (storeExclusive_miss rd v ha hmiss'),
          ⟨x32_writeX_same _ 1 hsp hpc, fun b => by rw [State.writeX_mem]; rfl⟩, fun e => ?_, hregs, hcontrol, hlog,
          State.writeX_psr .., State.writeX_pc ..⟩
        rw [State.writeX_excl, mem_consumeExclusive]

/-! ### The instructions -/

theorem ldrexUnpredictable_iff (rn rt : RegNum) :
    ldrexUnpredictable rn rt = true ↔ rt = 13#4 ∨ rt = 15#4 ∨ rn = 15#4 := by
  simp [ldrexUnpredictable, spOrPc, or_assoc]

theorem strexUnpredictable_iff (rn rt rd : RegNum) :
    strexUnpredictable rn rt rd = true ↔
      rd = 13#4 ∨ rd = 15#4 ∨ rt = 13#4 ∨ rt = 15#4 ∨ rn = 15#4 ∨ rd = rn ∨ rd = rt := by
  simp [strexUnpredictable, spOrPc, or_assoc]

/-- Settles O42: each row is one exclusive load, at the address that its rule computes. -/
theorem exclusiveLoadResults : Obligations.ExclusiveLoadResults := by
  intro s rn rt sb sb' imm8
  refine ⟨?opcodes, fun hc => ?results⟩
  case opcodes => exact ⟨decodesAs32_encode rfl rfl, decodesAs32_encode rfl rfl, decodesAs32_encode rfl rfl⟩
  split
  case isTrue hunpredictable =>
    have hu := (ldrexUnpredictable_iff rn rt).mpr hunpredictable
    exact ⟨guarded_unpredictable hu, guarded_unpredictable hu, guarded_unpredictable hu⟩
  case isFalse hok =>
    have hu : ldrexUnpredictable rn rt = false := Bool.eq_false_iff.mpr (mt (ldrexUnpredictable_iff rn rt).mp hok)
    obtain ⟨hsp, hpc, _⟩ : rt ≠ 13#4 ∧ rt ≠ 15#4 ∧ rn ≠ 15#4 := by simpa only [not_or] using hok
    exact ⟨loadsExclusive_of_exec (guarded_run hu hc) hsp hpc, loadsExclusive_of_exec (guarded_run hu hc) hsp hpc,
      loadsExclusive_of_exec (guarded_run hu hc) hsp hpc⟩

/-- Settles O43: each row is one exclusive store, at the address that its rule computes. -/
theorem exclusiveStoreResults : Obligations.ExclusiveStoreResults := by
  intro s rn rt rd sb imm8
  refine ⟨?opcodes, fun hc => ?results⟩
  case opcodes => exact ⟨decodesAs32_encode rfl rfl, decodesAs32_encode rfl rfl, decodesAs32_encode rfl rfl⟩
  split
  case isTrue hunpredictable =>
    have hu := (strexUnpredictable_iff rn rt rd).mpr hunpredictable
    exact ⟨guarded_unpredictable hu, guarded_unpredictable hu, guarded_unpredictable hu⟩
  case isFalse hok =>
    have hu : strexUnpredictable rn rt rd = false :=
      Bool.eq_false_iff.mpr (mt (strexUnpredictable_iff rn rt rd).mp hok)
    obtain ⟨hsp, hpc, _⟩ := strexUnpredictable_eq_false hu
    exact ⟨storesExclusive_of_exec (guarded_run hu hc) hsp hpc, storesExclusive_of_exec (guarded_run hu hc) hsp hpc,
      storesExclusive_of_exec (guarded_run hu hc) hsp hpc⟩

end Sys2Proof.Machine
end

section
/-! Table branches (48_dual_exclusive_tablebranch32.md R309, R310): one load, and a branch forward by twice what it
answers. -/

namespace Sys2Proof.Machine

variable {i : Instr} {s t : State} {a : Word} {sz : Size}

theorem OnlyBranches.of_writesNoFlags {target : Word} (h : WritesNoFlags s t []) (a : Word)
    (htarget : clearBit0 a = target) : OnlyBranches s (t.branchWritePC a) target := by
  obtain ⟨⟨hframe, hmem, _⟩, hpsr⟩ := h
  exact ⟨htarget, hpsr, hframe.setPc _, hmem⟩

theorem afterRead_pc (s : State) (a : Word) (sz : Size) : (s.afterRead a sz).pc = s.pc :=
  (afterRead_writesNoFlags s a sz).1.2.2

/-- R309, R310: what a table branch leaves, by the port's answer. -/
theorem branchesByTable_of_exec (hexec : exec i s = tableBranch a sz s) :
    if s.readable a sz then
      Completes i s fun t => OnlyBranches s t ((s.pc + 2 * s.readValue a sz) &&& 0xFFFFFFFE#32)
    else OnlyLogs i s (.accessFailed a) := by
  rw [tableBranch, loadU_eq] at hexec
  split at hexec
  case isTrue hr =>
    have hpc : (s.afterRead a sz).x32 15#4 = s.pc := afterRead_pc s a sz
    rw [if_pos hr]
    exact ⟨_, hexec, .of_writesNoFlags (afterRead_writesNoFlags s a sz) _ (by rw [hpc]; rfl)⟩
  case isFalse hr =>
    rw [if_neg hr]
    exact hexec

theorem tableUnpredictable_iff (rn rm : RegNum) (s : State) :
    tableUnpredictable rn rm s = true ↔
      rn = 13#4 ∨ rm = 13#4 ∨ rm = 15#4 ∨ (s.psr.inITBlock = true ∧ s.psr.lastInITBlock = false) := by
  simp [tableUnpredictable, spOrPc, Psr.inITNotLast, or_assoc]

/-- Settles O45: each row is one table branch, its entry at the address that its rule computes. -/
theorem tableBranchResults : Obligations.TableBranchResults := by
  intro s rn rm sb
  refine ⟨⟨decodesAs32_encode rfl rfl, decodesAs32_encode rfl rfl⟩, fun hc => ?_⟩
  intro byteAt halfAt
  split
  case isTrue hunpredictable =>
    have hu := (tableUnpredictable_iff rn rm s).mpr hunpredictable
    exact ⟨guarded_unpredictable hu, guarded_unpredictable hu⟩
  case isFalse hok =>
    have hu : tableUnpredictable rn rm s = false :=
      Bool.eq_false_iff.mpr (mt (tableUnpredictable_iff rn rm s).mp hok)
    exact ⟨branchesByTable_of_exec (guarded_run hu hc), branchesByTable_of_exec (guarded_run hu hc)⟩

end Sys2Proof.Machine
end

section
/-! Priorities and the pending store (60_exceptions.md R325, R328, R330 to R333): group priorities as arithmetic and as
masks, what a throw adds, what preempts, and which key the exception check takes. -/

namespace Sys2Proof.Machine

variable {s : State} {k : PendingKey} {ks : List PendingKey}

/-! ### Group priorities -/

/-- R325: negative priorities are not split. -/
theorem groupOf_neg (g : Fin 8) {raw : Int} (h : raw < 0) : groupOf g raw = raw := if_pos h

/-- R325: the sub-priority bits are taken off. -/
theorem groupOf_nonneg (g : Fin 8) {raw : Int} (h : 0 ≤ raw) : groupOf g raw = raw - raw % 2 ^ (g.val + 1) :=
  if_neg (Int.not_lt.mpr h)

theorem toNat_subMask (g : Fin 8) : (subMask g).toNat = 2 ^ (g.val + 1) - 1 := by
  revert g
  decide

/-- A word is the union of its bits outside a mask and those under it. -/
theorem and_not_or_and {w : Nat} (x m : BitVec w) : (x &&& ~~~m) ||| (x &&& m) = x := by
  ext j
  cases hm : m[j] <;> simp [hm]

/-- A word is the sum of its bits outside a mask and those under it. -/
theorem toNat_and_not_add {w : Nat} (x m : BitVec w) : (x &&& ~~~m).toNat + (x &&& m).toNat = x.toNat := by
  have hdisjoint : (x &&& ~~~m) &&& (x &&& m) = 0#w := by
    ext j
    cases hm : m[j] <;> simp [hm]
  rw [← BitVec.toNat_add_of_and_eq_zero hdisjoint, BitVec.add_eq_or_of_and_eq_zero _ _ hdisjoint, and_not_or_and]

/-- R325, R44: the group priority keeps the bits of `preempt_mask`. -/
theorem groupOf_eq_and_preemptMask (g : Fin 8) (raw : BitVec 8) :
    groupOf g raw.toNat = (raw &&& preemptMask g).toNat := by
  have hsum := toNat_and_not_add raw (subMask g)
  rw [BitVec.toNat_and raw (subMask g), toNat_subMask, Nat.and_two_pow_sub_one_eq_mod] at hsum
  rw [groupOf_nonneg g (Int.natCast_nonneg _), preemptMask]
  have hcast : ((raw &&& ~~~subMask g).toNat : Int) + raw.toNat % 2 ^ (g.val + 1) = raw.toNat := mod_cast hsum
  exact (eq_sub_of_add_eq hcast).symm

/-- Settles O51: the two cases of `groupOf`, and the mask under which the sub-priority bits lie. -/
theorem groupPriorityArithmetic : Obligations.GroupPriorityArithmetic := by
  refine ⟨fun g raw hraw => ?split, fun c n => ⟨rfl, fun hraw => ?_, fun hraw => if_pos hraw⟩⟩
  case split =>
    refine ⟨groupOf_nonneg g (Int.natCast_nonneg _), ?_, fun neg => groupOf_neg g, toNat_subMask g, rfl⟩
    have hword := groupOf_eq_and_preemptMask g (BitVec.ofNat 8 raw)
    rwa [BitVec.toNat_ofNat, Nat.mod_eq_of_lt hraw] at hword
  · rw [Nvic.groupPri, groupOf_nonneg _ hraw, Nvic.subPri, if_neg (Int.not_lt.mpr hraw)]
    omega

/-! ### Throwing an exception -/

/-- Settles O50: the request is accepted or dropped. -/
theorem throwExceptionResults : Obligations.ThrowExceptionResults := by
  intro s n
  split
  case isTrue hdropped =>
    exact throwException_dropped (by rw [throwAccepted_iff]; omega)
  case isFalse hroom =>
    exact throwException_accepted (by rw [throwAccepted_iff]; omega)

/-! ### Preemption -/

/-- R331: below the base priority is below the innermost active exception, if there is one. -/
theorem lt_basePriority_iff (c : Nvic) {gp : Int} (hgp : gp ≤ 255) :
    gp < c.basePriority ↔ ∀ v, c.activeStack.getLast? = some v → gp < c.groupPri v := by
  unfold Nvic.basePriority Nvic.innermost
  cases c.activeStack.getLast? with
  | none => simp; omega
  | some v => simp

/-- R331: below the boost is below the highest mask in force. -/
theorem lt_boostPriority_iff (s : State) {gp : Int} (hgp : gp ≤ 255) :
    gp < s.boostPriority ↔
      (s.faultmask = true → gp < -1) ∧ (s.faultmask = false → s.primask = true → gp < 0) ∧
        (s.faultmask = false → s.primask = false → s.basepri ≠ 0#8 →
          gp < (s.basepri &&& preemptMask s.nvic.prigroup).toNat) := by
  rw [State.boostPriority, groupOf_eq_and_preemptMask]
  cases s.faultmask with
  | true => simp
  | false =>
    cases s.primask with
    | true => simp
    | false =>
      by_cases hbasepri : s.basepri = 0#8
      · simp [hbasepri]; omega
      · simp [hbasepri]

/-- R332: with mask gating a key preempts below the execution priority. -/
theorem preempts_gated (h : s.params.maskGating = true) (gp : Int) :
    s.preempts gp = true ↔ gp < s.nvic.basePriority ∧ gp < s.boostPriority := by
  rw [State.preempts, if_pos h, decide_eq_true_eq, State.executionPriority, lt_min_iff]

/-- R332, D17: without mask gating the masks play no part, and in Thread mode everything preempts. -/
theorem preempts_ungated (h : s.params.maskGating = false) (gp : Int) :
    s.preempts gp = true ↔
      s.mode = .thread ∨ ∀ v, s.nvic.activeStack.getLast? = some v → gp < s.nvic.groupPri v := by
  simp only [State.preempts, h, Bool.false_eq_true, if_false, Bool.or_eq_true, beq_iff_eq, Nvic.innermost]
  cases s.nvic.activeStack.getLast? <;> simp

/-- Settles O52: below the execution priority is below its two parts. -/
theorem masksGatePreemption : Obligations.MasksGatePreemption := by
  refine fun s gp => ⟨fun hgated hgp => ?_, fun hungated => preempts_ungated hungated gp⟩
  rw [preempts_gated hgated, lt_basePriority_iff _ hgp, lt_boostPriority_iff _ hgp]

/-! ### The key that is taken -/

/-- A list that is not empty has an element of least value. -/
theorem exists_minimal {α : Type} (f : α → Int) {l : List α} (h : l ≠ []) : ∃ x ∈ l, ∀ y ∈ l, f x ≤ f y := by
  classical
  obtain ⟨x, hx, hmin⟩ := l.toFinset.exists_min_image f (List.toFinset_nonempty_iff l |>.mpr h)
  exact ⟨x, List.mem_toFinset.mp hx, fun y hy => hmin y (List.mem_toFinset.mpr hy)⟩

theorem mem_lowestKeys : k ∈ lowestKeys ks ↔ k ∈ ks ∧ ∀ j ∈ ks, k.packed ≤ j.packed := by
  simp [lowestKeys]

/-- R328: where vectors have 9 bits, the packed order is that of group priority, then vector. -/
theorem PendingKey.packed_le_iff {j k : PendingKey} (hj : j.vector < 512) (hk : k.vector < 512) :
    k.packed ≤ j.packed ↔ k.gp < j.gp ∨ (k.gp = j.gp ∧ k.vector ≤ j.vector) := by
  simp only [PendingKey.packed]
  omega

/-- R333: a choice is made wherever there is something to choose from. -/
theorem pickKey_eq_none {i : Nat} (h : pickKey i ks = none) : ks = [] := by
  unfold pickKey at h
  split at h
  · rfl
  · cases h
  · rename_i hne _
    have hlen : 0 < ks.length := List.length_pos_iff.mpr hne
    exact absurd (List.getElem?_eq_none_iff.mp h) (Nat.not_le.mpr (Nat.mod_lt i hlen))

/-- R333: what is taken is of minimal group priority, and of minimal vector among its equals under lowest_vector. -/
theorem topPending_minimal (hvec : ∀ j ∈ s.nvic.pending, j.vector < 512) (h : s.topPending = some k) :
    (∀ j ∈ s.nvic.pending, k.gp ≤ j.gp) ∧
      (s.params.tieBreak = .lowestVector → ∀ j ∈ s.nvic.pending, j.gp = k.gp → k.vector ≤ j.vector) := by
  have hk := hvec k (topPending_mem h)
  unfold State.topPending at h
  split at h
  case h_1 hlowest =>
    obtain ⟨_, hmin⟩ := mem_lowestKeys.mp (List.mem_of_mem_head? h)
    have horder : ∀ j ∈ s.nvic.pending, k.gp < j.gp ∨ (k.gp = j.gp ∧ k.vector ≤ j.vector) := fun j hj =>
      (PendingKey.packed_le_iff (hvec j hj) hk).mp (hmin j hj)
    exact ⟨fun j hj => by have := horder j hj; omega, fun _ j hj hgp => by have := horder j hj; omega⟩
  case h_2 hany =>
    exact ⟨(mem_topKeys.mp (pickKey_mem h)).2, fun hlowest => nomatch hany.symm.trans hlowest⟩

/-- R333: something is taken from every store that is not empty. -/
theorem topPending_eq_none (h : s.topPending = none) : s.nvic.pending = [] := by
  by_contra hne
  unfold State.topPending at h
  split at h
  · obtain ⟨k, hk, hmin⟩ := exists_minimal PendingKey.packed hne
    exact List.ne_nil_of_mem (mem_lowestKeys.mpr ⟨hk, hmin⟩) (List.head?_eq_none_iff.mp h)
  · obtain ⟨k, hk, hmin⟩ := exists_minimal PendingKey.gp hne
    exact List.ne_nil_of_mem (mem_topKeys.mpr ⟨hk, hmin⟩) (pickKey_eq_none h)

/-- R332: the check takes the top key where that preempts. -/
theorem checkException_some {v : Nat} {t : State} (h : s.checkException = some (v, t)) :
    ∃ k, s.topPending = some k ∧ k.vector = v ∧ s.preempts k.gp = true ∧
      t = (s.setNvic { s.nvic with pending := s.nvic.pending.erase k }).draw := by
  unfold State.checkException at h
  split at h
  · cases h
  · rename_i k htop
    split at h
    case isTrue hpreempts =>
      cases h
      exact ⟨k, htop, rfl, hpreempts, rfl⟩
    case isFalse => cases h

/-- R332: where the check answers none, nothing is pending or the top key does not preempt. -/
theorem checkException_none (h : s.checkException = none) :
    s.nvic.pending = [] ∨ ∃ k, s.topPending = some k ∧ s.preempts k.gp = false := by
  unfold State.checkException at h
  split at h
  · exact .inl (topPending_eq_none ‹_›)
  · rename_i k htop
    split at h
    case isTrue => cases h
    case isFalse hpreempts => exact .inr ⟨k, htop, Bool.eq_false_of_not_eq_true hpreempts⟩

/-- Settles O53: all keys of minimal group priority have the group priority of the top key. -/
theorem checkTakesTheMostUrgent : Obligations.CheckTakesTheMostUrgent := by
  refine fun s hvec => ⟨fun v t h => ?taken, fun h k hk hmin => ?none⟩
  case taken =>
    obtain ⟨k, htop, hvector, hpreempts, rfl⟩ := checkException_some h
    obtain ⟨hgp, hlowest⟩ := topPending_minimal hvec htop
    exact ⟨k, topPending_mem htop, hvector, hgp, hlowest, hpreempts, rfl⟩
  case none =>
    obtain hempty | ⟨top, htop, hpreempts⟩ := checkException_none h
    · simp [hempty] at hk
    · have hle := (topPending_minimal hvec htop).1 k hk
      have hge := hmin top (topPending_mem htop)
      rwa [Int.le_antisymm hge hle]

end Sys2Proof.Machine
end

section
/-! Taking an exception (60_exceptions.md R334 to R337): where the frame lies, what it holds, and what entry writes. -/

namespace Sys2Proof.Machine

variable {s t : State} {a : Word} {v : Nat}

/-! ### The frame pointer -/

theorem getLsbD_two (x : Word) : x.getLsbD 2 = decide (x.toNat / 4 % 2 = 1) := Nat.testBit_eq_decide_div_mod_eq

theorem and_four (x : Word) : x &&& 4#32 = if x.getLsbD 2 then 4#32 else 0#32 := BitVec.and_twoPow x 2

/-- Bit 2 cleared, as a subtraction. -/
theorem and_not_four (x : Word) : x &&& ~~~4#32 = if x.getLsbD 2 then x - 4 else x := by
  have hsum := toNat_and_not_add x 4#32
  rw [and_four] at hsum
  split
  case isTrue h =>
    rw [if_pos h] at hsum
    bv_omega
  case isFalse h =>
    rw [if_neg h] at hsum
    exact BitVec.eq_of_toNat_eq hsum

/-- R336: the frame lies 32 bytes below the live stack pointer, or 36 where that is not 8-byte aligned. -/
theorem framePointer_eq (sp : Word) : framePointer sp = if sp.getLsbD 2 then sp - 36 else sp - 32 := by
  have hlow : (sp - 32).getLsbD 2 = sp.getLsbD 2 := by
    have hhalf : (sp - 32).toNat / 4 % 2 = sp.toNat / 4 % 2 := by bv_omega
    rw [getLsbD_two, getLsbD_two, hhalf]
  have hframe : framePointer sp = if (sp - 32).getLsbD 2 then sp - 32 - 4 else sp - 32 := and_not_four (sp - 32)
  rw [hframe, hlow]
  split
  · bv_omega
  · rfl

/-- R335, R336: the frame ends at the stack pointer with bit 2 cleared. -/
theorem framePointer_add (sp : Word) : framePointer sp + 32 = sp &&& ~~~4#32 := by
  rw [framePointer_eq, and_not_four]
  split <;> bv_omega

/-- R336: a frame is word aligned where the stack pointer is. -/
theorem aligned_framePointer {sp : Word} (h : aligned sp .word = true) : aligned (framePointer sp) .word = true := by
  rw [aligned_iff, Size.bytes] at h ⊢
  rw [framePointer_eq]
  split <;> bv_omega

/-! ### The push -/

/-- R24: a write to the stack pointer, bank by bank. -/
theorem setSp_eq (s : State) (v : Word) :
    s.setSp v = { s with
      spMain := if s.liveProcess then s.spMain else spMask v
      spProcess := if s.liveProcess then spMask v else s.spProcess } := by
  unfold State.setSp
  split <;> rfl

/-- R335: what `FrameHolds` asks of memory is that the eight words are those that entry pushes. -/
theorem frameHolds_of_words {fp : Word}
    (h : ∀ (j : Nat) (w : Word), s.frameWords[j]? = some w → t.mem.readLE (wordAt fp j).toNat 4 = w) :
    FrameHolds s t fp := by
  have hpsr := h 7 _ rfl
  refine ⟨h 0 _ rfl, h 1 _ rfl, h 2 _ rfl, h 3 _ rfl, h 4 _ rfl, h 5 _ rfl, h 6 _ rfl, ?_, ?_⟩
  · rw [hpsr, Psr.ofWord_toWord]
  · obtain ⟨_, _, _, _, _, _, halign⟩ := s.psr.toWord_bits (frameAlign s.sp)
    rw [hpsr]
    exact halign

/-- R335: the push of a frame whose words are admitted. -/
theorem pushFrame_ok (s : State) (ha : aligned s.sp .word = true) (hw : s.wordsWritable (framePointer s.sp) 8) :
    ∃ m, s.storeWords (framePointer s.sp) s.frameWords = .ok () (s.setMem m) ∧
      SameMemoryOutsideWords s (s.setMem m) (framePointer s.sp) 8 ∧
      (s.wordsPlain (framePointer s.sp) 8 → ∀ (j : Nat) (w : Word), s.frameWords[j]? = some w →
        m.readLE (wordAt (framePointer s.sp) j).toNat 4 = w) := by
  obtain ⟨m, hstore, houtside, hheld⟩ := storeWords_ok s.frameWords s _ (aligned_framePointer ha) hw
  exact ⟨m, hstore, houtside, fun hplain => hheld hplain (by decide : 4 * 8 < 2 ^ 32)⟩

/-- R334: entry with room in the active FIFO and a frame that is pushed. -/
theorem takeException_ok {u : State} (hroom : s.nvic.activeStack.length < s.params.nvec)
    (hstore : s.storeWords (framePointer s.sp) s.frameWords = .ok () u) :
    s.takeException v = .next (s.enterHandler (u.setSp (framePointer s.sp)) v) := by
  rw [State.takeException, if_neg (Nat.not_le.mpr hroom), hstore]

theorem liveProcess_iff (s : State) : s.liveProcess = true ↔ s.mode = .thread ∧ s.spsel = true := by
  simp [State.liveProcess]

/-- R337: the value that entry leaves in LR names the mode and the bank that were live. -/
theorem excReturn_eq (s : State) :
    s.excReturn = if s.mode = .handler then 0xFFFFFFF1#32 else if s.spsel then 0xFFFFFFFD#32 else 0xFFFFFFF9#32 := by
  unfold State.excReturn
  cases s.mode <;> rfl

/-- R334, R336: the state that entry leaves where the push left memory `m`. -/
def State.entered (s : State) (m : Memory) (v : Nat) : State :=
  s.enterHandler { s with
    mem := m
    spMain := if s.liveProcess then s.spMain else framePointer s.sp
    spProcess := if s.liveProcess then framePointer s.sp else s.spProcess } v

/-- R334: entry from a word-aligned stack, whatever the push left in memory. -/
theorem takeException_eq_entered {m : Memory} (hroom : s.nvic.activeStack.length < s.params.nvec)
    (ha : aligned s.sp .word = true) (hstore : s.storeWords (framePointer s.sp) s.frameWords = .ok () (s.setMem m)) :
    s.takeException v = .next (s.entered m v) := by
  have hmask : spMask (framePointer s.sp) = framePointer s.sp := spMask_of_aligned (aligned_framePointer ha)
  rw [takeException_ok hroom hstore, setSp_eq, hmask]
  rfl

/-- Settles O46: the push of the frame, and then the fields that entry writes. -/
theorem exceptionEntryResults : Obligations.ExceptionEntryResults := by
  intro s v hroom halign fp hw
  have ha : aligned s.sp .word = true := aligned_iff.mpr halign
  have hfp : framePointer s.sp = fp := framePointer_eq s.sp
  obtain ⟨m, hstore, houtside, hheld⟩ := pushFrame_ok s ha (hfp ▸ hw)
  have hbanks : if s.mode = .thread ∧ s.spsel = true then
      (s.entered m v).spProcess = fp ∧ (s.entered m v).spMain = s.spMain
      else (s.entered m v).spMain = fp ∧ (s.entered m v).spProcess = s.spProcess := by
    simp only [← liveProcess_iff, State.entered, State.enterHandler, hfp]
    split <;> exact ⟨rfl, rfl⟩
  rw [hfp] at houtside hheld
  exact ⟨s.entered m v, takeException_eq_entered hroom ha hstore, houtside,
    fun hplain => frameHolds_of_words (hheld hplain), rfl, hbanks, excReturn_eq s, rfl, rfl, rfl, rfl, rfl, rfl, rfl,
    rfl, rfl⟩

end Sys2Proof.Machine
end

section
/-! Returning from an exception (60_exceptions.md R339 to R344): when a PC write is a return, which returns fail before
the frame is popped, and what a return from a plain frame leaves. -/

namespace Sys2Proof.Machine

variable {i : Instr} {s t : State} {a : Word} {target : Mode} {process : Bool} {r n : Nat}

/-! ### Detection -/

/-- R339: in Handler mode a PC write with an EXC_RETURN value is an exception return. -/
theorem bxWritePC_return (hmode : s.mode = .handler) (hbit : a.getLsbD 0 = true) (htop : a.extractLsb' 28 4 = 0xF#4) :
    s.bxWritePC a = s.exceptionReturn a := by
  simp [State.bxWritePC, State.isExceptionReturn, hmode, hbit, htop]

/-- R65: an aligned read that succeeds writes nothing. -/
theorem loadA_writesNoFlags {sz : Size} {v : Word} (h : s.loadA a sz = .ok v t) : WritesNoFlags s t [] := by
  rw [loadA_eq] at h
  split at h
  · split at h
    · cases h
      exact afterRead_writesNoFlags s a sz
    · cases h
  · cases h

/-- R261, R291, R292, R295: a load form whose words are loaded ends in the PC write. -/
theorem exec_of_loadForm_pc {regs : List RegNum} {start target : Word} {wb : Option (RegNum × Word)}
    {vs : List (RegNum × Word)} {u : State} (hf : LoadForm s i regs true start wb)
    (hc : s.psr.conditionPassed = true) (hload : s.loadRegs start regs = .ok vs t)
    (htarget : t.loadA (wordAt start regs.length) .word = .ok target u) :
    exec i s = ((u.writeAll vs).writeBack wb).bxWritePC target := by
  rw [exec_of_loadForm hf hc, loadTransfer, hload]
  simp only [Access.andThen, if_true, htarget]

/-- Settles O47: nothing that precedes the PC write leaves Handler mode. -/
theorem exceptionReturnsAreDetected : Obligations.ExceptionReturnsAreDetected := by
  intro s hc hmode
  refine ⟨fun rm sb hit hrm hbit htop => ?exchange,
    fun i regs start wb vs s1 s2 target hf hload htarget hbit htop => ?load⟩
  case exchange =>
    have hu : (rm == 15#4 || s.psr.inITNotLast) = false :=
      Bool.eq_false_iff.mpr fun h => ((exchangeUnpredictable_iff s rm).mp h).elim hrm hit
    have hlinked : (s.writeX 14#4 (clearBit0 s.pc ||| 1)).mode = .handler := (State.writeX_mode ..).trans hmode
    rw [exec_bx, exec_blxReg, guarded_run hu hc, Bool.or_comm, guarded_run hu hc]
    exact ⟨bxWritePC_return hmode hbit htop, bxWritePC_return hlinked hbit htop⟩
  case load =>
    obtain ⟨hregs, _⟩ := loadRegs_writesNoFlags hload
    obtain ⟨⟨hframe, _⟩, _⟩ := ((hregs.trans (loadA_writesNoFlags htarget)).trans (writeAll_writesNoFlags vs s2)).trans
      (writeBack_writesNoFlags _ wb)
    exact (exec_of_loadForm_pc hf hc hload htarget).trans (bxWritePC_return (hframe.mode.trans hmode) hbit htop)

/-! ### Validation -/

/-- R337: the three valid low nibbles of an EXC_RETURN value. -/
theorem decodeExcReturn_iff (a : Word) (target : Mode) (process : Bool) :
    decodeExcReturn a = some (target, process) ↔
      (a.extractLsb' 0 4, target, process) ∈
        [(0x1#4, Mode.handler, false), (0x9#4, Mode.thread, false), (0xD#4, Mode.thread, true)] := by
  unfold decodeExcReturn
  split
  case h_1 h | h_2 h | h_3 h => simp [h, eq_comm (b := target), eq_comm (b := process)]
  case h_4 hmain hthread hprocess => simp [Ne.intro hmain, Ne.intro hthread, Ne.intro hprocess]

/-- R340 part A: a return is valid where its value is, an exception is innermost and active, and a return to Thread mode
ends the only one. -/
theorem validateReturn_iff :
    s.validateReturn a = some (target, process, r) ↔
      decodeExcReturn a = some (target, process) ∧ s.nvic.activeStack.getLast? = some r ∧
        s.nvic.active.getD r false = true ∧ (target = .thread → s.nvic.nested = 1) := by
  unfold State.validateReturn Nvic.innermost
  cases decodeExcReturn a with
  | none => simp
  | some p =>
    cases s.nvic.activeStack.getLast? with
    | none => simp
    | some r' =>
      obtain ⟨target', process'⟩ := p
      simp only [Option.ite_none_right_eq_some, Bool.and_eq_true, Bool.not_eq_true', Bool.and_eq_false_iff,
        beq_eq_false_iff_ne, bne_eq_false_iff_eq, ← imp_iff_not_or, Option.some.injEq, Prod.mk.injEq]
      constructor
      · rintro ⟨hvalid, rfl, rfl, rfl⟩
        exact ⟨⟨rfl, rfl⟩, rfl, hvalid⟩
      · rintro ⟨⟨rfl, rfl⟩, rfl, hvalid⟩
        exact ⟨hvalid, rfl, rfl, rfl⟩

/-! ### Returns that fail their checks -/

/-- R341: a return that is not valid pops nothing. -/
theorem exceptionReturn_failed (h : s.validateReturn a = none) :
    s.exceptionReturn a = .next (s.throwException Config.usageFault) := by
  rw [State.exceptionReturn, h]

/-- Settles O49: each of the four conditions contradicts a part of R340's part A. -/
theorem failedReturnPendsUsageFault : Obligations.FailedReturnPendsUsageFault := by
  intro s a nibble hfails
  refine exceptionReturn_failed (Option.eq_none_iff_forall_ne_some.mpr ?_)
  rintro ⟨target, process, r⟩ hvalid
  obtain ⟨hdecode, hlast, hactive, hdepth⟩ := validateReturn_iff.mp hvalid
  rw [decodeExcReturn_iff] at hdecode
  have hnibble : nibble ∈ [0x1#4, 0x9#4, 0xD#4] := List.mem_map_of_mem (f := Prod.fst) hdecode
  rcases hfails with hunknown | hempty | ⟨r', hlast', hinactive⟩ | ⟨hthread, hnested⟩
  · exact hunknown hnibble
  · simp [hempty] at hlast
  · cases hlast.symm.trans hlast'
    exact Bool.false_ne_true (hinactive.symm.trans hactive)
  · refine hnested (hdepth ?_)
    simp only [List.mem_cons, Prod.mk.injEq, List.not_mem_nil, or_false] at hdecode
    obtain ⟨hmain, _⟩ | ⟨_, htarget, _⟩ | ⟨_, htarget, _⟩ := hdecode
    · exact absurd hmain hthread
    · exact htarget
    · exact htarget

/-! ### The frame that is popped -/

/-- R335: the eight words of a frame in memory. -/
def Memory.frameAt (m : Memory) (fp : Word) : List Word := (List.range 8).map fun j => m.readLE (wordAt fp j).toNat 4

/-- Word loads from plain, readable, aligned memory answer the words there and change nothing (R62, R63). -/
theorem loadWords_plain (n : Nat) (s : State) (a : Word) (ha : aligned a .word = true) (hr : s.wordsReadable a n)
    (hp : s.wordsPlain a n) :
    s.loadWords a n = .ok ((List.range n).map fun j => s.mem.readLE (wordAt a j).toNat 4) s := by
  induction n generalizing a with
  | zero => rfl
  | succ n ih =>
    have hread : s.readable a .word = true := by simpa using hr 0 (by simp)
    have hplain : s.isDevice a .word = false := by simpa using hp 0 (by simp)
    have hfirst : s.loadA a .word = .ok (s.mem.readLE a.toNat 4) s := by
      simp [loadA_eq, ha, hread, State.readValue, State.afterRead, hplain, Size.bytes]
    have hrest := ih (a + 4) (aligned_add_four ha) (forall_wordAt_tail (P := fun x => s.readable x .word = true) hr)
      (forall_wordAt_tail (P := fun x => s.isDevice x .word = false) hp)
    simp only [State.loadWords, hfirst, hrest, Access.ok_bind, wordAt_succ, List.range_succ_eq_map, List.map_cons,
      List.map_map, wordAt_zero]
    rfl

/-- R340: a valid return from a plain frame. -/
theorem exceptionReturn_valid (hv : s.validateReturn a = some (target, process, r))
    (ha : aligned (s.bankSp process) .word = true) (hr : s.wordsReadable (s.bankSp process) 8)
    (hp : s.wordsPlain (s.bankSp process) 8) :
    s.exceptionReturn a = .next (s.restoreFrame target process r (s.bankSp process)
      (s.mem.frameAt (s.bankSp process))).postPopCheck := by
  rw [State.exceptionReturn, hv]
  simp only [loadWords_plain 8 s _ ha hr hp]
  rfl

/-! ### What a valid return restores -/

/-- R340 part B: the stack pointer above the frame, its bit 2 from bit 9 of the stacked status word. -/
theorem poppedSp_eq (fp w : Word) : poppedSp fp w = spMask ((fp + 32) ||| (if w.getLsbD 9 then 4#32 else 0#32)) := by
  have hbit : w.extractLsb' 9 1 = BitVec.ofBool (w.getLsbD 9) := by
    ext j hj
    obtain rfl : j = 0 := by omega
    simp
  rw [poppedSp, hbit]
  cases w.getLsbD 9 <;> rfl

theorem x32_of_lt {k : RegNum} (s : State) (hk : k.toNat < 13) : s.x32 k = s.gpr[k.toNat] := dif_pos hk

/-- R340 part B: the registers that a frame holds. -/
theorem restoreFrame_popped (fp : Word) (ws : List Word) :
    let t := s.restoreFrame target process r fp ws
    t.x32 0#4 = ws.getD 0 0 ∧ t.x32 1#4 = ws.getD 1 0 ∧ t.x32 2#4 = ws.getD 2 0 ∧ t.x32 3#4 = ws.getD 3 0 ∧
      t.x32 12#4 = ws.getD 4 0 := by
  simp [State.x32, State.readX, State.restoreFrame]

/-- R340 part B: the registers that a frame does not hold stay. -/
theorem restoreFrame_x32 (fp : Word) (ws : List Word) {k : RegNum} (hlow : 4 ≤ k.toNat) (hhigh : k.toNat < 12) :
    (s.restoreFrame target process r fp ws).x32 k = s.x32 k := by
  have hk : k.toNat < 13 := by omega
  rw [x32_of_lt _ hk, x32_of_lt _ hk]
  simp only [State.restoreFrame]
  rw [Vector.getElem_set_ne _ _ (by omega), Vector.getElem_set_ne _ _ (by omega), Vector.getElem_set_ne _ _ (by omega),
    Vector.getElem_set_ne _ _ (by omega), Vector.getElem_set_ne _ _ (by omega)]

/-- R340 part B: the stack pointer of the bank that held the frame. -/
theorem restoreFrame_banks (fp : Word) (ws : List Word) :
    let t := s.restoreFrame target process r fp ws
    if process then t.spProcess = poppedSp fp (ws.getD 7 0) ∧ t.spMain = s.spMain
    else t.spMain = poppedSp fp (ws.getD 7 0) ∧ t.spProcess = s.spProcess := by
  cases process <;> exact ⟨rfl, rfl⟩

/-- R340 part D: in Handler mode the IPSR names an exception, in Thread mode it is 0. -/
theorem modeMismatch_iff (s : State) : s.modeMismatch = true ↔ (s.mode = .handler ↔ s.psr.ipsr = 0#9) := by
  unfold State.modeMismatch
  cases s.mode <;> simp

/-- R340 part D, R330: a contradictory return throws, which reaches the pending store and the LOG alone. -/
theorem postPopCheck_spec (s : State) :
    ∃ pending log, s.postPopCheck = { s with nvic := { s.nvic with pending := pending }, log := log } ∧
      if (s.mode = .handler ↔ s.psr.ipsr = 0#9) then
        if 7 ≤ s.params.nvec ∧ s.nvic.pending.length < s.params.nvec then
          log = s.log ∧ ∀ k, pending.count k = s.nvic.pending.count k + (if k = ⟨s.nvic.groupPri 6, 6⟩ then 1 else 0)
        else pending = s.nvic.pending ∧ log = .dropped 6 :: s.log
      else pending = s.nvic.pending ∧ log = s.log := by
  unfold State.postPopCheck
  simp only [modeMismatch_iff]
  split
  case isTrue =>
    have haccepted : s.throwAccepted 6 = true ↔ 7 ≤ s.params.nvec ∧ s.nvic.pending.length < s.params.nvec := by
      rw [throwAccepted_iff]
      omega
    split
    case isTrue hroom =>
      obtain ⟨hthrow, hcount⟩ := throwException_accepted (haccepted.mpr hroom)
      exact ⟨_, s.log, hthrow, rfl, hcount⟩
    case isFalse hfull =>
      exact ⟨s.nvic.pending, _, throwException_dropped (mt haccepted.mp hfull), rfl, rfl⟩
  case isFalse => exact ⟨s.nvic.pending, s.log, rfl, rfl, rfl⟩

/-- Settles O48: the restored fields one by one, then the pending store and the LOG by `postPopCheck_spec`. -/
theorem exceptionReturnResults : Obligations.ExceptionReturnResults := by
  intro s a target process r hdecode hlast hactive hdepth fp w halign hr hp
  have hactive' : s.nvic.active.getD r false = true := by simp [hactive]
  have hvalid := validateReturn_iff.mpr ⟨(decodeExcReturn_iff a target process).mpr hdecode, hlast, hactive', hdepth⟩
  have hexec := exceptionReturn_valid hvalid (aligned_iff.mpr halign) hr hp
  let u := s.restoreFrame target process r fp (s.mem.frameAt fp)
  obtain ⟨pending, log, ht, hthrow⟩ := postPopCheck_spec u
  obtain ⟨h0, h1, h2, h3, h12⟩ :
      u.x32 0#4 = w 0 ∧ u.x32 1#4 = w 1 ∧ u.x32 2#4 = w 2 ∧ u.x32 3#4 = w 3 ∧ u.x32 12#4 = w 4 :=
    restoreFrame_popped fp (s.mem.frameAt fp)
  have hkept : ∀ k : RegNum, 4 ≤ k.toNat → k.toNat < 12 → u.x32 k = s.x32 k := fun k => restoreFrame_x32 fp _
  have hbanks := restoreFrame_banks (s := s) (target := target) (process := process) (r := r) fp (s.mem.frameAt fp)
  rw [poppedSp_eq] at hbanks
  exact ⟨_, hexec.trans (congrArg _ ht), h0, h1, h2, h3, h12, hkept, rfl, rfl, rfl, hbanks, rfl, rfl, rfl, rfl, rfl,
    rfl, rfl, rfl, rfl, rfl, fun _ => rfl, rfl, rfl, rfl, hthrow⟩

end Sys2Proof.Machine
end

section
/-! An exception that is taken and returned from at once (60_exceptions.md R342): what entry pushes and changes, the
return pops and changes back. -/

namespace Sys2Proof.Machine

variable {s t : State} {a : Word} {v : Nat}

/-! ### What entry leaves for the return -/

/-- R67: stores that all succeed were all admitted. -/
theorem wordsWritable_of_storeWords {ws : List Word} {u : Unit} (h : s.storeWords a ws = .ok u t) :
    s.wordsWritable a ws.length := by
  induction ws generalizing s a with
  | nil => exact fun j hj => absurd hj (Nat.not_lt_zero j)
  | cons w rest ih =>
    rw [State.storeWords, storeA_eq] at h
    split at h
    · split at h
      case isTrue hw =>
        have hrest := ih (s := s.afterWrite a .word w) h
        intro j hj
        cases j with
        | zero => simpa using hw
        | succ j =>
          have hregions : (s.afterWrite a .word w).regions = s.regions := (afterWrite_frame s a .word w).regions
          rw [← wordAt_succ, ← writable_congr hregions]
          exact hrest j (Nat.lt_of_succ_lt_succ hj)
      case isFalse => cases h
    · cases h

/-- R24, R46: in a consistent state the live stack pointer is word aligned. -/
theorem Inv.aligned_sp (h : Inv s) : aligned s.sp .word = true := by
  have hword : ∀ x : Word, x.extractLsb' 0 2 = 0#2 → aligned x .word = true := fun x hx => by
    have hlow := congrArg BitVec.toNat hx
    rw [BitVec.extractLsb'_toNat] at hlow
    exact aligned_iff.mpr hlow
  unfold State.sp
  split
  · exact hword _ h.spProcessAligned
  · exact hword _ h.spMainAligned

/-- R334: where an exception is taken, its frame was pushed to admitted words and is held by plain memory. -/
theorem takeException_entered (hinv : Inv s) (hp : s.wordsPlain (framePointer s.sp) 8)
    (h : s.takeException v = .next t) :
    ∃ m, t = s.entered m v ∧ m.frameAt (framePointer s.sp) = s.frameWords := by
  obtain ⟨hroom, u, s', hstore, _⟩ := takeException_next h
  obtain ⟨m, hpush, _, hheld⟩ := pushFrame_ok s hinv.aligned_sp (wordsWritable_of_storeWords hstore)
  have hentered := takeException_eq_entered (v := v) hroom hinv.aligned_sp hpush
  refine ⟨m, ?_, ?_⟩
  · cases h.symm.trans hentered
    rfl
  · refine List.ext_getElem rfl fun j hj hj' => ?_
    rw [← hheld hp j _ (List.getElem?_eq_getElem hj')]
    simp [Memory.frameAt]

/-! ### The EXC_RETURN value -/

/-- R337, R339: the value that entry leaves in LR is one that starts a return. -/
theorem excReturn_bits (s : State) : s.excReturn.getLsbD 0 = true ∧ s.excReturn.extractLsb' 28 4 = 0xF#4 := by
  unfold State.excReturn
  cases s.mode <;> cases s.spsel <;> exact ⟨rfl, rfl⟩

/-- R337: it names the mode that was left and the bank that was live. -/
theorem decodeExcReturn_excReturn (s : State) : decodeExcReturn s.excReturn = some (s.mode, s.liveProcess) := by
  unfold State.excReturn State.liveProcess
  cases s.mode <;> cases s.spsel <;> rfl

/-- R340: the return from the exception just taken is valid. -/
theorem validateReturn_entered (hinv : Inv s) (hv : s.nvic.active[v]? = some false) (m : Memory) :
    (s.entered m v).validateReturn s.excReturn = some (s.mode, s.liveProcess, v) := by
  obtain ⟨hlen, _⟩ := List.getElem?_eq_some_iff.mp hv
  refine validateReturn_iff.mpr ⟨decodeExcReturn_excReturn s, ?_, ?_, fun hthread => ?_⟩
  · exact List.getLast?_concat
  · show (s.nvic.active.set v true).getD v false = true
    simp [hlen]
  · have hdepth : s.nvic.nested = 0 := by rw [hinv.nestedDepth, hinv.threadIdle hthread, List.length_nil]
    show s.nvic.nested + 1 = 1
    rw [hdepth]

/-! ### Each change undone -/

/-- R26: an even address is its own even part. -/
theorem clearBit0_of_even (h : a.getLsbD 0 = false) : a &&& 0xFFFFFFFE#32 = a := by
  have hlow : a &&& 1#32 = 0#32 := by
    rw [BitVec.and_one_eq_setWidth_ofBool_getLsbD, h]
    rfl
  have hunion := and_not_or_and a 1#32
  rwa [hlow, BitVec.or_zero] at hunion

/-- R336, R340 part B: the alignment bit restores what the frame's alignment took from the stack pointer. -/
theorem poppedSp_framePointer (ha : aligned a .word = true) (p : Psr) :
    poppedSp (framePointer a) (p.toWord (frameAlign a)) = a := by
  obtain ⟨_, _, _, _, _, _, halign⟩ := p.toWord_bits (frameAlign a)
  rw [poppedSp_eq, halign, frameAlign, framePointer_add, ← and_four, and_not_or_and, spMask_of_aligned ha]

/-- R334 step 5, R340 part C: an exception that was inactive is so again. -/
theorem deactivate_activate {c : Nvic} (hv : c.active[v]? = some false) : (c.activate v).deactivate v = c := by
  obtain ⟨hlen, hfalse⟩ := List.getElem?_eq_some_iff.mp hv
  have hactive : (c.active.set v true).set v false = c.active := by
    rw [List.set_set, ← hfalse, List.set_getElem_self]
  simp only [Nvic.deactivate, Nvic.activate, hactive, List.dropLast_concat, Nat.add_sub_cancel]

/-- R340 parts B and C: the words that entry pushed bring the state before entry back, but for memory and `it_new`. -/
theorem restoreFrame_entered (hinv : Inv s) (hv : s.nvic.active[v]? = some false)
    (hsp : s.mode = .handler → s.spsel = false) (m : Memory) :
    (s.entered m v).restoreFrame s.mode s.liveProcess v (framePointer s.sp) s.frameWords =
      { s with mem := m, itNew := true } := by
  have hgpr : ((((s.gpr.set 0 s.gpr[0]).set 1 s.gpr[1]).set 2 s.gpr[2]).set 3 s.gpr[3]).set 12 s.gpr[12] = s.gpr := by
    simp
  have hpc : s.pc &&& 0xFFFFFFFE#32 = s.pc := clearBit0_of_even hinv.pcEven
  have hpop := poppedSp_framePointer hinv.aligned_sp s.psr
  have hnvic := deactivate_activate hv
  have hspsel : s.liveProcess = s.spsel := by
    unfold State.liveProcess
    cases hmode : s.mode with
    | thread => rfl
    | handler => exact (hsp hmode).symm
  simp only [State.restoreFrame, State.entered, State.enterHandler, State.frameWords, List.getD_cons_zero,
    List.getD_cons_succ, hgpr, hpc, hpop, hnvic, Psr.ofWord_toWord]
  cases hlive : s.liveProcess <;> simp [State.sp, hlive, ← hspsel]

/-- R340 part D: in a state whose IPSR agrees with its mode nothing is thrown. -/
theorem postPopCheck_consistent (h : s.mode = .thread ↔ s.psr.ipsr = 0#9) : s.postPopCheck = s := by
  have hmatch : ¬s.modeMismatch = true := by
    rw [modeMismatch_iff, ← h]
    cases s.mode <;> simp
  exact if_neg hmatch

/-! ### The round trip -/

/-- R213: BX LR outside an IT block. -/
theorem exec_bxLr (sb : BitVec 3) (hit : s.psr.itstate = 0#8) : exec (.bx 14#4 sb) s = s.bxWritePC s.lr := by
  have houtside : s.psr.inITBlock = false := by simp [Psr.inITBlock, hit]
  have hu : (s.psr.inITNotLast || (14#4 : RegNum) == 15#4) = false := by simp [Psr.inITNotLast, houtside]
  exact (exec_bx 14#4 sb s).trans (guarded_run hu (conditionPassed_of_not_inITBlock houtside))

/-- Settles O4: BX LR is a valid return, which pops the words that entry pushed. -/
theorem entryThenReturnRestoresState : Obligations.EntryThenReturnRestoresState := by
  intro s t v sb hinv hv hmode hsp hr hp htake
  obtain ⟨m, rfl, hframe⟩ := takeException_entered hinv hp htake
  obtain ⟨hbit, htop⟩ := excReturn_bits s
  have hfp : (s.entered m v).bankSp s.liveProcess = framePointer s.sp := by
    simp only [State.bankSp, State.entered, State.enterHandler]
    cases s.liveProcess <;> rfl
  have hreturn := exceptionReturn_valid (validateReturn_entered hinv hv m) (hfp ▸ aligned_framePointer hinv.aligned_sp)
    (hfp ▸ hr) (hfp ▸ hp)
  have hmem : (s.entered m v).mem = m := rfl
  rw [hfp, hmem, hframe, restoreFrame_entered hinv hv hsp,
    postPopCheck_consistent (s := { s with mem := m, itNew := true }) hmode] at hreturn
  calc exec (.bx 14#4 sb) (s.entered m v)
    _ = (s.entered m v).bxWritePC s.excReturn := exec_bxLr sb rfl
    _ = (s.entered m v).exceptionReturn s.excReturn := bxWritePC_return rfl hbit htop
    _ = .next { s with mem := m, itNew := true } := hreturn

end Sys2Proof.Machine
end
